-- ==== Sys2Proof/Word.lean ====
section
/-! DEFINITION. The word types of the block and nothing else (00_scope.md R10, R11; 30_encoding.md R84 to R87).
A timestamp or a duration is an unsigned count of TIME_UNIT (R10) whose width TW is open (R9, D3): it is a plain Nat
throughout, so nothing wraps (DESIGN CHOICE, log 3). -/

namespace Sys2Proof

/-- A byte of a frame or of a data port: bit 7 is the most significant (R11). -/
abbrev Byte := BitVec 8

/-- A 4-bit code: the top or the bottom half of a status byte (R72). -/
abbrev Nibble := BitVec 4

/-- A 5-bit channel port or register: 1..16 when legal, 0..31 representable (R24, R75). -/
abbrev Channel := BitVec 5

end Sys2Proof
end

