-- ==== Sys2Proof/Config.lean ====
section
/-! DEFINITION. The constants the source fixes (00_scope.md R8). The parameters it leaves open (R9) need no
constant here: time is a natural number of counts (log 3), the polling interval is the argument of a host's
poll action, and the band and value-source choices are registers that CONFIGURE writes. No free value is used:
no rule leaves a result open. -/

namespace Sys2Proof.Config

/-- "16, surfaced as 1..16, on the wire 0..15" (R8). -/
def numChannels : Nat := 16

/-- The greatest value of a 7-bit data byte (R8). -/
def dataMax : Nat := 127

end Sys2Proof.Config
end

