-- ==== Sys2Proof/Syntax.lean ====
section
/-! DEFINITION. The records of the transaction-level interface (30_encoding.md R70 to R93), the instructions,
one constructor for each row of opcode_table.json, and what a host can ask. -/

namespace Sys2Proof

/-- The closed set of status kinds (R74). -/
inductive StatusKind where
  | noteOff | noteOn | controlChange | programChange
  deriving DecidableEq, Repr

/-- The data bytes behind a status byte: none (format F1), data1 (F2), or data1 and data2 (F3) (R71, R73). -/
inductive DataBytes where
  | none
  | one (d1 : Byte)
  | two (d1 d2 : Byte)
  deriving DecidableEq, Repr

/-- The bytes of a frame in wire order: no byte at all, or a status byte and its data bytes (R54, R70).
A byte at index `len` or above does not exist (R52), so it cannot be written here. -/
inductive FrameBytes where
  | empty
  | bytes (status : Byte) (data : DataBytes)
  deriving DecidableEq, Repr

/-- A frame value: its bytes and the time since the previous frame (R12, R84). -/
structure Frame where
  bytes : FrameBytes
  tsl : Nat
  deriving DecidableEq, Repr

/-- A decoded message (R85). -/
structure Msg where
  channel : Channel
  status : StatusKind
  data1 : Option Byte
  data2 : Option Byte
  tsl : Nat
  deriving DecidableEq, Repr

/-- CFG.BOUNDS: `Inclusive` is 0, `Strict` is 1 (R35). -/
inductive Bounds where
  | inclusive | strict
  deriving DecidableEq, Repr

/-- CFG.VSRC: `Data2ElseData1` is 0, `Data1` is 1 (R36). -/
inductive ValueSource where
  | data2ElseData1 | data1
  deriving DecidableEq, Repr

/-- The arguments of CONFIGURE, at the port widths of R87; wide enough to carry an illegal value (D27). -/
structure ConfigArgs where
  trigCh : Channel
  trigSt : Nibble
  trigVal : Byte
  actCh : Channel
  actSt : Nibble
  actVal : Byte
  enVal : Byte
  disVal : Byte
  timeout : Nat
  low : Byte
  high : Byte
  bounds : Bounds
  vsrc : ValueSource
  deriving DecidableEq, Repr

/-- The nine classes of a non-empty frame, by byte 0 alone: the rows of the first-byte map (R78). -/
inductive FrameClass where
  | unrecData | noteOff | noteOn | unrecA | controlChange | programChange | unrecD | unrecE | extended
  deriving DecidableEq, Repr

/-- One constructor for each row of opcode_table.json. The first ten are the frame classes, the block's
"instruction encoding" (R71, R78, R93), each with the bits its row leaves open; the last five are the
operations (R6, R90) with their operand records. -/
inductive Instr where
  /-- NOTE_OFF: byte 0 is `1000cccc`. -/
  | noteOff (ch : Nibble) (data : DataBytes) (tsl : Nat)
  /-- NOTE_ON: byte 0 is `1001cccc`. -/
  | noteOn (ch : Nibble) (data : DataBytes) (tsl : Nat)
  /-- CONTROL_CHANGE: byte 0 is `1011cccc`. -/
  | controlChange (ch : Nibble) (data : DataBytes) (tsl : Nat)
  /-- PROGRAM_CHANGE: byte 0 is `1100cccc`. -/
  | programChange (ch : Nibble) (data : DataBytes) (tsl : Nat)
  /-- UNREC_DATA: byte 0 is `0xxxxxxx`. -/
  | unrecData (low : BitVec 7) (data : DataBytes) (tsl : Nat)
  /-- UNREC_A: byte 0 is `1010xxxx`. -/
  | unrecA (low : Nibble) (data : DataBytes) (tsl : Nat)
  /-- UNREC_D: byte 0 is `1101xxxx`. -/
  | unrecD (low : Nibble) (data : DataBytes) (tsl : Nat)
  /-- UNREC_E: byte 0 is `1110xxxx`. -/
  | unrecE (low : Nibble) (data : DataBytes) (tsl : Nat)
  /-- EXTENDED: byte 0 is `1111xxxx`. -/
  | extended (low : Nibble) (data : DataBytes) (tsl : Nat)
  /-- EMPTY: a frame of no bytes. -/
  | empty (tsl : Nat)
  /-- DECODE (R100). -/
  | decode (f : Frame)
  /-- ENCODE with the fields of EncodeArgs (R86, R106). -/
  | encode (status : StatusKind) (channel : Channel) (data1 data2 : Option Byte)
  /-- MATCH of a pattern and a candidate (R112). -/
  | matchFrames (pattern candidate : Frame)
  /-- CONFIGURE (R140). -/
  | configure (args : ConfigArgs)
  /-- TICK with the fields of TickIn (R88, R150). -/
  | tick (now : Nat) (fin : Option Frame)
  deriving DecidableEq, Repr

/-- A frame port: a 2-bit length beside three byte lanes (R84). The lanes at or above `len` carry anything (R52). -/
structure FramePort where
  len : BitVec 2
  lane0 : Byte
  lane1 : Byte
  lane2 : Byte
  tsl : Nat
  deriving DecidableEq, Repr

/-- An optional byte port: a valid bit beside a value field (R13). -/
structure OptBytePort where
  valid : Bool
  value : Byte
  deriving DecidableEq, Repr

/-- The port of CONFIGURE: R87's fields, the two 1-bit choices absent when the host does not supply them. -/
structure ConfigPort where
  trigCh : Channel
  trigSt : Nibble
  trigVal : Byte
  actCh : Channel
  actSt : Nibble
  actVal : Byte
  enVal : Byte
  disVal : Byte
  timeout : Nat
  low : Byte
  high : Byte
  bounds : Option (BitVec 1)
  vsrc : Option (BitVec 1)
  deriving DecidableEq, Repr

/-- The operand ports beside the 3-bit operation select (R84 to R90). `frameA` is DECODE's frame, MATCH's
pattern and, when `frameValid`, TICK's frame; `frameB` is MATCH's candidate. `status` is a member of the closed
set, "so no illegal status can be passed" (R86). -/
structure Ports where
  frameA : FramePort
  frameB : FramePort
  frameValid : Bool
  status : StatusKind
  channel : Channel
  data1 : OptBytePort
  data2 : OptBytePort
  config : ConfigPort
  now : Nat
  deriving DecidableEq, Repr

/-- What the block is handed: the bytes of a whole wire frame, presented to DECODE (R57, R81), or an operation
select with its operand ports (R90). -/
inductive Request where
  | wire (bytes : List Byte) (tsl : Nat)
  | op (select : BitVec 3) (ports : Ports)
  deriving DecidableEq, Repr

/-- What the host can do (R18, R60, R220): request an operation itself, or run one polling iteration: wait
`dt` counts (the open T_POLL of R9), read the clock, poll the input source once, and request TICK with both. -/
inductive HostAction where
  | request (r : Request)
  | poll (dt : Nat)
  deriving DecidableEq, Repr

end Sys2Proof
end

