-- ==== Sys2Proof/Decode.lean ====
section
/-! DEFINITION. The decoder: from what the block is handed to an instruction, total, rejecting by name; then the
encoder, written from the same tables (30_encoding.md R71 to R90). -/

namespace Sys2Proof

/-- Why a request stands for no instruction. -/
inductive DecodeError where
  /-- A wire frame of more than 3 bytes "cannot be represented at the interface" (R70). -/
  | frameTooLong
  /-- The select codes `101`, `110`, `111` "are unassigned and a request with one of them is refused" (R90). -/
  | unassignedSelect
  deriving DecidableEq, Repr

/-! ### Fields of the status byte -/

/-- `b[7:4]` (R11, R72). -/
def topNibble (b : Byte) : Nibble := b.extractLsb' 4 4

/-- `b[3:0]` (R11, R72). -/
def lowNibble (b : Byte) : Nibble := b.extractLsb' 0 4

/-- `nib(k)`: the 4-bit code of a status kind (R74). -/
def nibOf (k : StatusKind) : Nibble :=
  match k with
  | .noteOff => 0x8#4
  | .noteOn => 0x9#4
  | .controlChange => 0xB#4
  | .programChange => 0xC#4

/-- `kind(n)`: the inverse of `nibOf`, none on the other twelve codes (R74). -/
def kindOf (n : Nibble) : Option StatusKind :=
  if n = 0x8#4 then some .noteOff
  else if n = 0x9#4 then some .noteOn
  else if n = 0xB#4 then some .controlChange
  else if n = 0xC#4 then some .programChange
  else none

/-! ### Wire frames -/

/-- The first-byte map, tested by the masks and matches of its rows; the last row, `1111xxxx`, is what remains (R78). -/
def classOf (b : Byte) : FrameClass :=
  if b &&& 0x80#8 = 0x00#8 then .unrecData
  else if b &&& 0xF0#8 = 0x80#8 then .noteOff
  else if b &&& 0xF0#8 = 0x90#8 then .noteOn
  else if b &&& 0xF0#8 = 0xA0#8 then .unrecA
  else if b &&& 0xF0#8 = 0xB0#8 then .controlChange
  else if b &&& 0xF0#8 = 0xC0#8 then .programChange
  else if b &&& 0xF0#8 = 0xD0#8 then .unrecD
  else if b &&& 0xF0#8 = 0xE0#8 then .unrecE
  else .extended

/-- The instruction of a frame whose byte 0 is `b0` (R78). -/
def classify (b0 : Byte) (data : DataBytes) (tsl : Nat) : Instr :=
  match classOf b0 with
  | .noteOff => .noteOff (lowNibble b0) data tsl
  | .noteOn => .noteOn (lowNibble b0) data tsl
  | .controlChange => .controlChange (lowNibble b0) data tsl
  | .programChange => .programChange (lowNibble b0) data tsl
  | .unrecData => .unrecData (b0.extractLsb' 0 7) data tsl
  | .unrecA => .unrecA (lowNibble b0) data tsl
  | .unrecD => .unrecD (lowNibble b0) data tsl
  | .unrecE => .unrecE (lowNibble b0) data tsl
  | .extended => .extended (lowNibble b0) data tsl

/-- The instruction of a frame value: its length is tested before any byte is read (R93). -/
def instrOfFrame (f : Frame) : Instr :=
  match f.bytes with
  | .empty => .empty f.tsl
  | .bytes b0 data => classify b0 data f.tsl

/-- A frame from its bytes in wire order; none when there are more than three (R54, R70). -/
def frameOfBytes (bytes : List Byte) (tsl : Nat) : Option Frame :=
  match bytes with
  | [] => some ⟨.empty, tsl⟩
  | [b0] => some ⟨.bytes b0 .none, tsl⟩
  | [b0, b1] => some ⟨.bytes b0 (.one b1), tsl⟩
  | [b0, b1, b2] => some ⟨.bytes b0 (.two b1 b2), tsl⟩
  | _ => none

/-- The wire decoder, total on any bytes (R78, R81). -/
def decodeWire (bytes : List Byte) (tsl : Nat) : Except DecodeError Instr :=
  match frameOfBytes bytes tsl with
  | some f => .ok (instrOfFrame f)
  | none => .error .frameTooLong

/-! ### Operand ports -/

/-- The frame on a port: only the lanes below `len` are read (R52, R84). -/
def frameOfPort (p : FramePort) : Frame :=
  if p.len = 0#2 then ⟨.empty, p.tsl⟩
  else if p.len = 1#2 then ⟨.bytes p.lane0 .none, p.tsl⟩
  else if p.len = 2#2 then ⟨.bytes p.lane0 (.one p.lane1), p.tsl⟩
  else ⟨.bytes p.lane0 (.two p.lane1 p.lane2), p.tsl⟩

/-- An optional byte: the value field is read only when the valid bit is set (R13). -/
def optByteOfPort (p : OptBytePort) : Option Byte :=
  if p.valid then some p.value else none

/-- CFG.BOUNDS from its bit, `Inclusive` when the host does not supply it (R35, R87). -/
def boundsOfPort (b : Option (BitVec 1)) : Bounds :=
  if b = some 1#1 then .strict else .inclusive

/-- CFG.VSRC from its bit, `Data2ElseData1` when the host does not supply it (R36, R87). -/
def vsrcOfPort (b : Option (BitVec 1)) : ValueSource :=
  if b = some 1#1 then .data1 else .data2ElseData1

/-- CONFIGURE's argument record from its port (R87). -/
def configOfPort (p : ConfigPort) : ConfigArgs where
  trigCh := p.trigCh
  trigSt := p.trigSt
  trigVal := p.trigVal
  actCh := p.actCh
  actSt := p.actSt
  actVal := p.actVal
  enVal := p.enVal
  disVal := p.disVal
  timeout := p.timeout
  low := p.low
  high := p.high
  bounds := boundsOfPort p.bounds
  vsrc := vsrcOfPort p.vsrc

/-- The select code of DECODE, ENCODE, MATCH, CONFIGURE, TICK (R90). -/
def decodeOp (select : BitVec 3) (p : Ports) : Except DecodeError Instr :=
  if select = 0b000#3 then .ok (.decode (frameOfPort p.frameA))
  else if select = 0b001#3 then
    .ok (.encode p.status p.channel (optByteOfPort p.data1) (optByteOfPort p.data2))
  else if select = 0b010#3 then .ok (.matchFrames (frameOfPort p.frameA) (frameOfPort p.frameB))
  else if select = 0b011#3 then .ok (.configure (configOfPort p.config))
  else if select = 0b100#3 then
    .ok (.tick p.now (if p.frameValid then some (frameOfPort p.frameA) else none))
  else .error .unassignedSelect

/-- The decoder of whatever the block is handed. -/
def decodeRequest (r : Request) : Except DecodeError Instr :=
  match r with
  | .wire bytes tsl => decodeWire bytes tsl
  | .op select ports => decodeOp select ports

/-! ### The encoder -/

/-- The data bytes in wire order (R54). -/
def dataList (d : DataBytes) : List Byte :=
  match d with
  | .none => []
  | .one d1 => [d1]
  | .two d1 d2 => [d1, d2]

/-- The bytes of a frame in wire order (R54). -/
def frameList (f : Frame) : List Byte :=
  match f.bytes with
  | .empty => []
  | .bytes b0 data => b0 :: dataList data

/-- All ports at zero: no frame, no data, no choice supplied. -/
def zeroPorts : Ports where
  frameA := ⟨0#2, 0#8, 0#8, 0#8, 0⟩
  frameB := ⟨0#2, 0#8, 0#8, 0#8, 0⟩
  frameValid := false
  status := .noteOff
  channel := 0#5
  data1 := ⟨false, 0#8⟩
  data2 := ⟨false, 0#8⟩
  config := ⟨0#5, 0#4, 0#8, 0#5, 0#4, 0#8, 0#8, 0#8, 0, 0#8, 0#8, none, none⟩
  now := 0

/-- A frame on its port, zeros in the lanes that are not part of it (R84). -/
def portOfFrame (f : Frame) : FramePort :=
  match f.bytes with
  | .empty => ⟨0#2, 0#8, 0#8, 0#8, f.tsl⟩
  | .bytes b0 .none => ⟨1#2, b0, 0#8, 0#8, f.tsl⟩
  | .bytes b0 (.one b1) => ⟨2#2, b0, b1, 0#8, f.tsl⟩
  | .bytes b0 (.two b1 b2) => ⟨3#2, b0, b1, b2, f.tsl⟩

/-- An optional byte on its port (R13). -/
def portOfOptByte (v : Option Byte) : OptBytePort :=
  match v with
  | none => ⟨false, 0#8⟩
  | some b => ⟨true, b⟩

/-- CFG.BOUNDS as its bit (R35). -/
def bitOfBounds (b : Bounds) : BitVec 1 :=
  match b with
  | .inclusive => 0#1
  | .strict => 1#1

/-- CFG.VSRC as its bit (R36). -/
def bitOfVsrc (v : ValueSource) : BitVec 1 :=
  match v with
  | .data2ElseData1 => 0#1
  | .data1 => 1#1

/-- CONFIGURE's argument record on its port (R87). -/
def portOfConfig (a : ConfigArgs) : ConfigPort where
  trigCh := a.trigCh
  trigSt := a.trigSt
  trigVal := a.trigVal
  actCh := a.actCh
  actSt := a.actSt
  actVal := a.actVal
  enVal := a.enVal
  disVal := a.disVal
  timeout := a.timeout
  low := a.low
  high := a.high
  bounds := some (bitOfBounds a.bounds)
  vsrc := some (bitOfVsrc a.vsrc)

/-- A wire frame of a class: the class's fixed top nibble, the open low nibble, the data bytes (R71, R78). -/
def wireOf (top low : Nibble) (data : DataBytes) (tsl : Nat) : Request :=
  .wire ((top ++ low) :: dataList data) tsl

/-- The request that stands for an instruction (R71, R78, R84 to R90). -/
def encodeRequest (i : Instr) : Request :=
  match i with
  | .noteOff ch data tsl => wireOf 0x8#4 ch data tsl
  | .noteOn ch data tsl => wireOf 0x9#4 ch data tsl
  | .controlChange ch data tsl => wireOf 0xB#4 ch data tsl
  | .programChange ch data tsl => wireOf 0xC#4 ch data tsl
  | .unrecData low data tsl => .wire ((0#1 ++ low) :: dataList data) tsl
  | .unrecA low data tsl => wireOf 0xA#4 low data tsl
  | .unrecD low data tsl => wireOf 0xD#4 low data tsl
  | .unrecE low data tsl => wireOf 0xE#4 low data tsl
  | .extended low data tsl => wireOf 0xF#4 low data tsl
  | .empty tsl => .wire [] tsl
  | .decode f => .op 0b000#3 { zeroPorts with frameA := portOfFrame f }
  | .encode k ch d1 d2 =>
    .op 0b001#3 { zeroPorts with
      status := k, channel := ch, data1 := portOfOptByte d1, data2 := portOfOptByte d2 }
  | .matchFrames p c =>
    .op 0b010#3 { zeroPorts with frameA := portOfFrame p, frameB := portOfFrame c }
  | .configure a => .op 0b011#3 { zeroPorts with config := portOfConfig a }
  | .tick now none => .op 0b100#3 { zeroPorts with now := now }
  | .tick now (some f) =>
    .op 0b100#3 { zeroPorts with now := now, frameValid := true, frameA := portOfFrame f }

/-! ### Words as opcode_table.json numbers them -/

/-- The low `n` bytes of a number, the least significant first: a frame's byte 0 is bits 7..0. -/
def bytesOfWord (n w : Nat) : List Byte :=
  match n with
  | 0 => []
  | m + 1 => BitVec.ofNat 8 w :: bytesOfWord m (w / 256)

/-- The request a table word stands for: an operation row gives 3 bits, the select code, with every operand
port zero; a frame row gives whole bytes, the frame itself (R90, R93; DESIGN CHOICE, safe, log 10). -/
def requestOfWord (nbits w : Nat) : Request :=
  if nbits = 3 then .op (BitVec.ofNat 3 w) zeroPorts
  else .wire (bytesOfWord ((nbits + 7) / 8) w) 0

/-- The instruction the decoder reads from a table word. -/
def decodeTableWord (nbits w : Nat) : Option Instr :=
  match decodeRequest (requestOfWord nbits w) with
  | .ok i => some i
  | .error _ => none

end Sys2Proof
end

