-- ==== Sys2Proof/Machine/State.lean ====
section
/-! DEFINITION. The state of the block (10_state.md R20 to R47), the host's side of its interface
(60_exceptions.md R216 to R220), the results the operations return (30_encoding.md R85 to R89), and the ways a
step can stop. There is no memory (20_memory.md R50) and no program counter (10_state.md R22). -/

namespace Sys2Proof.Machine

/-- The configuration registers CFG.* (R24 to R37), written only by a successful CONFIGURE. The two status
registers hold the enumeration R25 allows in place of the wire nibble (DESIGN CHOICE, safe, log 2). -/
structure CfgRegs where
  valid : Bool
  trigCh : Channel
  trigSt : StatusKind
  trigVal : Byte
  actCh : Channel
  actSt : StatusKind
  actVal : Byte
  enVal : Byte
  disVal : Byte
  timeout : Nat
  low : Byte
  high : Byte
  bounds : Bounds
  vsrc : ValueSource
  deriving DecidableEq, Repr

/-- The controller state registers ST.* (R39 to R42). -/
structure CtlRegs where
  engaged : Bool
  ltv : Byte
  ltvValid : Bool
  tlt : Nat
  deriving DecidableEq, Repr

/-- `DecodeOut` (R89). The refusal of R103 is no value of it. -/
inductive DecodeOut where
  | ok (m : Msg)
  | decodeSkipped
  | unrecognizedStatus
  deriving DecidableEq, Repr

/-- `EncodeOut` (R89). -/
inductive EncodeOut where
  | ok (f : Frame)
  | malformedAction
  deriving DecidableEq, Repr

/-- What CONFIGURE returns (R87). -/
inductive ConfigOut where
  | ok
  | invalidConfig
  | ambiguousSpec
  deriving DecidableEq, Repr

/-- The output record of an operation (R6, R87 to R89). TICK returns an optional frame and no verdict (R88). -/
inductive Response where
  | decoded (out : DecodeOut)
  | encoded (out : EncodeOut)
  | matched (bit : Bool)
  | configured (out : ConfigOut)
  | ticked (out : Option Frame)
  deriving DecidableEq, Repr

/-- The closed taxonomy of verdicts (R200, R201). -/
inductive Verdict where
  | ok | decodeSkipped | unrecognizedStatus | malformedAction | ambiguousSpec | invalidConfig
  deriving DecidableEq, Repr

/-- The host's side of the interface, the model's own fields (DESIGN CHOICE, unsafe, log 4): what the host will do next, what its input
source will answer to `pollFrame`, the `now` of the most recent TICK requested, the frames it handed to
`sendFrame` (oldest first), and the output record of the most recent operation. -/
structure HostSide where
  script : List HostAction
  input : List (Option Frame)
  clock : Nat
  sent : List Frame
  response : Option Response
  deriving DecidableEq, Repr

/-- The state: the configuration, the controller, and the host's side of the interface. -/
structure State where
  cfg : CfgRegs
  ctl : CtlRegs
  host : HostSide
  deriving DecidableEq, Repr

/-- The block has no trap: a verdict is a returned value (R200, R208, R212), and no request stops it with a
fault. No constructor, so nothing raises one. -/
inductive Fault where
  deriving DecidableEq, Repr

/-- Requests that have no step (R15, R225; 93_implementation_defined.md section 2). Each is safe: the model stops
where the source's contracts give the request no meaning, and nothing can be proved of what follows. -/
inductive Refusal where
  /-- Raised by an arm of `exec` whose instruction has no meaning yet; no arm does. Safe. -/
  | notModelled (mnemonic : String)
  /-- X1, X2: a data byte with bit 7 set under a recognised status byte, raised by DECODE, by the four recognised
  frame classes and by TICK (R103, R151). Safe: the spec refuses it. -/
  | dataBit7
  /-- X3: TICK while CFG.VALID = 0, raised by TICK (R151). Safe: the spec refuses it. -/
  | notConfigured
  /-- X4: TICK while engaged with `now < ST.TLT`, raised by TICK (R151). Safe: the spec refuses it. -/
  | clockBackwards
  /-- X5: CONFIGURE while CFG.VALID = 1, raised by CONFIGURE (R141). Safe: the spec refuses it. -/
  | alreadyConfigured
  /-- X6: an operation-select code of 101, 110 or 111, raised by `step` when the decoder rejects it (R90). Safe:
  the spec refuses it. -/
  | unassignedSelect
  /-- A wire frame of more than 3 bytes, which "cannot be represented at the interface", raised by `step` when the
  decoder rejects it (R70). Safe: the spec leaves it outside the block. -/
  | frameTooLong
  deriving DecidableEq, Repr

/-- The four ST.* registers after reset and after a successful CONFIGURE (R46, R144). -/
def CtlRegs.reset : CtlRegs where
  engaged := false
  ltv := 0#8
  ltvValid := false
  tlt := 0

/-- The configuration registers after reset: CFG.VALID is 0 (R46). The others are unspecified and never read
while it is; the values here are the model's (DESIGN CHOICE, unsafe, log 1). -/
def CfgRegs.reset : CfgRegs where
  valid := false
  trigCh := 0#5
  trigSt := .noteOff
  trigVal := 0#8
  actCh := 0#5
  actSt := .noteOff
  actVal := 0#8
  enVal := 0#8
  disVal := 0#8
  timeout := 0
  low := 0#8
  high := 0#8
  bounds := .inclusive
  vsrc := .data2ElseData1

/-- The host before it has asked anything (log 4). -/
def HostSide.reset : HostSide where
  script := []
  input := []
  clock := 0
  sent := []
  response := none

/-- The state before construction (R46, R230). -/
def State.reset : State where
  cfg := CfgRegs.reset
  ctl := CtlRegs.reset
  host := HostSide.reset

end Sys2Proof.Machine
end

