-- ==== Sys2Proof/Machine/Operands.lean ====
section
/-! DEFINITION. The operand forms: a frame's bytes, the status byte, data pack and unpack (30_encoding.md R71 to
R77; 40_codec.md R108, R109, R118, R119). -/

namespace Sys2Proof.Machine

/-- `data1` is present when the frame has at least 2 bytes (R73). -/
def data1Of (d : DataBytes) : Option Byte :=
  match d with
  | .none => none
  | .one d1 => some d1
  | .two d1 _ => some d1

/-- `data2` is present when the frame has 3 bytes (R73). -/
def data2Of (d : DataBytes) : Option Byte :=
  match d with
  | .none => none
  | .one _ => none
  | .two _ d2 => some d2

/-- Some existing data byte has bit 7 set: the wire contract is broken (R80, R103). -/
def breaksContract (d : DataBytes) : Bool :=
  match d with
  | .none => false
  | .one d1 => d1.msb
  | .two d1 d2 => d1.msb || d2.msb

/-- `zext_5(ch) + 1`: the 1-based channel of a 0-based nibble (R75). -/
def channelOf (ch : Nibble) : Channel := ch.zeroExtend 5 + 1#5

/-- The status byte ENCODE builds: `(nib(status) << 4) | ((channel - 1) & 0x0F)`, the subtraction modulo 32 on
the 5-bit port (R75, R108, R110; outside 1..16 DESIGN CHOICE, unsafe, log 6). -/
def statusByte (k : StatusKind) (ch : Channel) : Byte :=
  ((nibOf k).zeroExtend 8 <<< 4) ||| ((ch - 1#5).zeroExtend 8 &&& 0x0F#8)

/-- A data operand packed into a frame: `v & 0x7F` (R77, R109). -/
def maskData (v : Byte) : Byte := v &&& 0x7F#8

/-- The message of a frame whose status byte has kind `k` and channel nibble `ch`: data taken as it stands,
`tsl` copied (R77, R104). -/
def messageOf (k : StatusKind) (ch : Nibble) (data : DataBytes) (tsl : Nat) : Msg where
  channel := channelOf ch
  status := k
  data1 := data1Of data
  data2 := data2Of data
  tsl := tsl

/-- A channel port or register is legal when it is in 1..16 (R24, R27). -/
def channelLegal (ch : Channel) : Bool :=
  decide (1 ≤ ch.toNat) && decide (ch.toNat ≤ Config.numChannels)

/-- A value or a threshold is legal when it is in 0..127 (R26, R29 to R34). -/
def valueLegal (v : Byte) : Bool := decide (v.toNat ≤ Config.dataMax)

end Sys2Proof.Machine
end

