-- ==== Sys2Proof/Machine/Ops.lean ====
section
/-! DEFINITION. The named operations on the state: returning a result, taking the host's next action, handing a
returned frame to the output sink. A verdict is returned like any other result: it saves nothing, changes no
register and transfers control nowhere (60_exceptions.md R200, R212, R213), so there is no exception entry and no
return from one. -/

namespace Sys2Proof.Machine

/-- The operation ends with this output record (R6, R14). -/
def State.respond (s : State) (r : Response) : State :=
  { s with host := { s.host with response := some r } }

/-- The verdict an output record carries; a normal output carries `ok` (R201). -/
def verdictOf (r : Response) : Verdict :=
  match r with
  | .decoded (.ok _) => .ok
  | .decoded .decodeSkipped => .decodeSkipped
  | .decoded .unrecognizedStatus => .unrecognizedStatus
  | .encoded (.ok _) => .ok
  | .encoded .malformedAction => .malformedAction
  | .matched _ => .ok
  | .configured .ok => .ok
  | .configured .invalidConfig => .invalidConfig
  | .configured .ambiguousSpec => .ambiguousSpec
  | .ticked _ => .ok

/-- The numeric codes the spec assigns (R201). -/
def verdictCode (v : Verdict) : Nat :=
  match v with
  | .ok => 0
  | .decodeSkipped => 1
  | .unrecognizedStatus => 2
  | .malformedAction => 3
  | .ambiguousSpec => 4
  | .invalidConfig => 5

/-- The refusal a rejected request ends in (R70, R90). -/
def refusalOf (e : DecodeError) : Refusal :=
  match e with
  | .frameTooLong => .frameTooLong
  | .unassignedSelect => .unassignedSelect

/-- The clock after a request: a TICK (select `100`) was given the host's `now` (R151, R218). -/
def clockAfter (clock : Nat) (r : Request) : Nat :=
  match r with
  | .wire _ _ => clock
  | .op select ports => if select = 0b100#3 then ports.now else clock

/-- The request a polling iteration makes: TICK with the time just read and the polled frame (R60, R88, R216). -/
def pollRequest (now : Nat) (fin : Option Frame) : Request := encodeRequest (.tick now fin)

/-- The host takes its next action. A request is made as it stands. A polling iteration lets `dt` counts pass,
reads the clock, takes one answer of the input source (which no longer holds it, R59; nothing once it has no more),
and requests TICK (R60; DEDUCED, safe, logs 11, 12). None when the host asks nothing. -/
def takeAction (s : State) : Option (Request × State) :=
  match s.host.script with
  | [] => none
  | .request r :: rest =>
    some (r, { s with host := { s.host with script := rest, clock := clockAfter s.host.clock r } })
  | .poll dt :: rest =>
    some (pollRequest (s.host.clock + dt) (s.host.input.headD none),
      { s with host := { s.host with
          script := rest, clock := s.host.clock + dt, input := s.host.input.tail } })

/-- The host hands the frame TICK returned to the output sink, before it asks anything else (R61, R217;
DEDUCED, unsafe for claims about a device, log 7). -/
def sendReturned (s : State) : State :=
  match s.host.response with
  | some (.ticked (some f)) => { s with host := { s.host with sent := s.host.sent ++ [f] } }
  | _ => s

/-- A completed operation is followed by the host's sending; a stop is left as it is. -/
def deliver (o : Host.Outcome State Fault Refusal) : Host.Outcome State Fault Refusal :=
  match o with
  | .next s => .next (sendReturned s)
  | .fault r => .fault r
  | .refused r => .refused r

end Sys2Proof.Machine
end

