-- ==== Sys2Proof/Machine/Codec.lean ====
section
/-! DEFINITION. The Message Codec: DECODE, ENCODE, MATCH (40_codec.md). All three are pure: they read no register
and write none, and return a result (R105, R111, R115). -/

namespace Sys2Proof.Machine

/-- DECODE, lines 1 to 6 of R100 in order; the refusal of lines 4 and 5 is R103. -/
def decodeFrame (f : Frame) : Except Refusal DecodeOut :=
  match f.bytes with
  | .empty => .ok .decodeSkipped
  | .bytes b0 data =>
    if 0xF0 ≤ b0.toNat then .ok .decodeSkipped
    else
      match kindOf (topNibble b0) with
      | none => .ok .unrecognizedStatus
      | some k =>
        if breaksContract data then .error .dataBit7
        else .ok (.ok (messageOf k (lowNibble b0) data f.tsl))

/-- The frame of a status byte and its data bytes, as the block builds one: `tsl` is 0 (R111). -/
def builtFrame (b0 : Byte) (data : DataBytes) : Frame := ⟨.bytes b0 data, 0⟩

/-- ENCODE, lines 1 to 5 of R106. -/
def encodeFrame (k : StatusKind) (ch : Channel) (data1 data2 : Option Byte) : EncodeOut :=
  match data1, data2 with
  | none, some _ => .malformedAction
  | none, none => .ok (builtFrame (statusByte k ch) .none)
  | some v1, none => .ok (builtFrame (statusByte k ch) (.one (maskData v1)))
  | some v1, some v2 => .ok (builtFrame (statusByte k ch) (.two (maskData v1) (maskData v2)))

/-- The candidate has every byte of the pattern, in place: bytes compared raw, from index 0 (R112). -/
def leadingBytesEqual (pattern candidate : List Byte) : Bool :=
  match pattern, candidate with
  | [], _ => true
  | _ :: _, [] => false
  | p :: ps, c :: cs => decide (p = c) && leadingBytesEqual ps cs

/-- MATCH, lines 1 to 3 of R112: false if either frame is empty (R113) or the candidate is the shorter (R114). -/
def matchBytes (pattern candidate : Frame) : Bool :=
  if (frameList pattern).length = 0 ∨ (frameList candidate).length = 0 then false
  else if (frameList candidate).length < (frameList pattern).length then false
  else leadingBytesEqual (frameList pattern) (frameList candidate)

/-- DECODE (R100). -/
def execDecode (f : Frame) (s : State) : Host.Outcome State Fault Refusal :=
  match decodeFrame f with
  | .ok out => .next (s.respond (.decoded out))
  | .error r => .refused r

/-- ENCODE (R106). -/
def execEncode (k : StatusKind) (ch : Channel) (data1 data2 : Option Byte) (s : State) :
    Host.Outcome State Fault Refusal :=
  .next (s.respond (.encoded (encodeFrame k ch data1 data2)))

/-- MATCH (R112): never a verdict. -/
def execMatchFrames (pattern candidate : Frame) (s : State) : Host.Outcome State Fault Refusal :=
  .next (s.respond (.matched (matchBytes pattern candidate)))

end Sys2Proof.Machine
end

