-- ==== Sys2Proof/Machine/Flags.lean ====
section
/-! DEFINITION. The conditions that set and clear the three flags (10_state.md R23): the comparator, the trigger
match, the value a match records, the inactivity timer (41_controller.md R152 to R157). -/

namespace Sys2Proof.Machine

/-- `TriggerSpec`, a view of CFG.* (R38). -/
structure TriggerSpec where
  channel : Channel
  status : StatusKind
  value : Byte
  deriving DecidableEq, Repr

/-- `ActionSpec`, a view of CFG.* (R38). -/
structure ActionSpec where
  channel : Channel
  status : StatusKind
  value : Byte
  auxValue : Byte
  deriving DecidableEq, Repr

/-- The trigger specification of a configuration (R38). -/
def triggerSpec (c : CfgRegs) : TriggerSpec where
  channel := c.trigCh
  status := c.trigSt
  value := c.trigVal

/-- The enable action (R38). -/
def enableSpec (c : CfgRegs) : ActionSpec where
  channel := c.actCh
  status := c.actSt
  value := c.actVal
  auxValue := c.enVal

/-- The disable action (R38). -/
def disableSpec (c : CfgRegs) : ActionSpec where
  channel := c.actCh
  status := c.actSt
  value := c.actVal
  auxValue := c.disVal

/-- The hysteresis comparator `InBand(v)`, all operands unsigned (R154). -/
def inBand (c : CfgRegs) (v : Byte) : Bool :=
  match c.bounds with
  | .inclusive => decide (c.low.toNat ≤ v.toNat) && decide (v.toNat ≤ c.high.toNat)
  | .strict => decide (c.low.toNat < v.toNat) && decide (v.toNat < c.high.toNat)

/-- `TrigMatch(m)`: channel, status and data1 agree; data2 takes no part (R156). -/
def trigMatch (t : TriggerSpec) (m : Msg) : Bool :=
  decide (m.channel = t.channel) && decide (m.status = t.status) && decide (m.data1 = some t.value)

/-- `Select(m)`: the value a match records (R157). A matching message has data1 (R156), so the last fallback, to
the trigger value that data1 then equals, is never taken on a match. -/
def selectValue (c : CfgRegs) (m : Msg) : Byte :=
  match c.vsrc with
  | .data2ElseData1 => m.data2.getD (m.data1.getD c.trigVal)
  | .data1 => m.data1.getD c.trigVal

/-- `elapsed = now - ST.TLT` (R153); read only where `ST.TLT <= now` (R151). -/
def elapsed (r : CtlRegs) (now : Nat) : Nat := now - r.tlt

/-- Step 1 of TICK fires: engaged, `elapsed > CFG.TIMEOUT`, and the last trigger value in band (R152). -/
def timeoutFires (c : CfgRegs) (r : CtlRegs) (now : Nat) : Bool :=
  r.engaged && decide (c.timeout < elapsed r now) && inBand c r.ltv

end Sys2Proof.Machine
end

