-- ==== Sys2Proof/Machine/Controller.lean ====
section
/-! DEFINITION. The Engage Controller: CONFIGURE and TICK (41_controller.md). -/

namespace Sys2Proof.Machine

/-! ### The frames the controller builds -/

/-- An action frame is ENCODE of the action with both data operands, so always 3 bytes, whatever the status kind
(R146, R147, R149). -/
def actionFrame (a : ActionSpec) : Frame :=
  builtFrame (statusByte a.status a.channel) (.two (maskData a.value) (maskData a.auxValue))

/-- The enable frame (R146). -/
def enableFrame (c : CfgRegs) : Frame := actionFrame (enableSpec c)

/-- The disable frame (R147). -/
def disableFrame (c : CfgRegs) : Frame := actionFrame (disableSpec c)

/-- The trigger pattern, ENCODE of the trigger with data1 only; TICK does not build it (R148). -/
def triggerPattern (c : CfgRegs) : Frame :=
  builtFrame (statusByte c.trigSt c.trigCh) (.one (maskData c.trigVal))

/-! ### CONFIGURE -/

/-- Lines 5 to 8 of R140: every value, the timeout and the band in range. -/
def valuesLegal (a : ConfigArgs) : Bool :=
  valueLegal a.trigVal && valueLegal a.actVal && valueLegal a.enVal && valueLegal a.disVal &&
    decide (0 < a.timeout) && valueLegal a.low && valueLegal a.high &&
    decide (a.low.toNat ≤ a.high.toNat)

/-- Line 9 of R140: the trigger and the action agree in channel, status and data1 (R143). -/
def ambiguous (a : ConfigArgs) : Bool :=
  decide (a.trigCh = a.actCh) && decide (a.trigSt = a.actSt) && decide (a.trigVal = a.actVal)

/-- The registers CONFIGURE writes at line 10 of R140 when both status nibbles are kinds. -/
def registersOf (a : ConfigArgs) (trigSt actSt : StatusKind) : CfgRegs where
  valid := true
  trigCh := a.trigCh
  trigSt := trigSt
  trigVal := a.trigVal
  actCh := a.actCh
  actSt := actSt
  actVal := a.actVal
  enVal := a.enVal
  disVal := a.disVal
  timeout := a.timeout
  low := a.low
  high := a.high
  bounds := a.bounds
  vsrc := a.vsrc

/-- Lines 2 to 10 of R140: the registers to write, or the verdict. Every range check comes before the ambiguity
check (R142, R210). -/
def checkConfig (a : ConfigArgs) : Except ConfigOut CfgRegs :=
  if !channelLegal a.trigCh then .error .invalidConfig
  else if !channelLegal a.actCh then .error .invalidConfig
  else
    match kindOf a.trigSt, kindOf a.actSt with
    | some kt, some ka =>
      if !valuesLegal a then .error .invalidConfig
      else if ambiguous a then .error .ambiguousSpec
      else .ok (registersOf a kt ka)
    | _, _ => .error .invalidConfig

/-- CONFIGURE (R140): refused once configured (R141); a verdict writes no register (R145). -/
def execConfigure (a : ConfigArgs) (s : State) : Host.Outcome State Fault Refusal :=
  if s.cfg.valid then .refused .alreadyConfigured
  else
    match checkConfig a with
    | .error v => .next (s.respond (.configured v))
    | .ok regs =>
      .next (({ s with cfg := regs, ctl := CtlRegs.reset } : State).respond (.configured .ok))

/-! ### TICK -/

/-- DECODE refuses the incoming frame (R103, R151(c)). -/
def frameRefused (fin : Option Frame) : Bool :=
  match fin with
  | none => false
  | some f =>
    match decodeFrame f with
    | .ok _ => false
    | .error _ => true

/-- Lines 1 to 3 of R150: the contract breaches that give a TICK no step (R151). -/
def tickRefusal (now : Nat) (fin : Option Frame) (s : State) : Option Refusal :=
  if !s.cfg.valid then some .notConfigured
  else if s.ctl.engaged && decide (now < s.ctl.tlt) then some .clockBackwards
  else if frameRefused fin then some .dataBit7
  else none

/-- The trigger match of this TICK, if there is one: an absent, undecodable or non-matching frame is "no trigger
this tick" (R155, R156). -/
def triggerOf (c : CfgRegs) (fin : Option Frame) : Option Msg :=
  match fin with
  | none => none
  | some f =>
    match decodeFrame f with
    | .ok (.ok m) => if trigMatch (triggerSpec c) m then some m else none
    | _ => none

/-- The controller after a trigger match: value and time recorded, engaged from now on (R157, R158). -/
def recordTrigger (c : CfgRegs) (now : Nat) (m : Msg) : CtlRegs where
  engaged := true
  ltv := selectValue c m
  ltvValid := true
  tlt := now

/-- Lines 4 to 16 of R150: step 1, then step 2 unless step 1 produced a frame (R160; the
spec's decision D17, unsafe there, log 13), then the result. -/
def tickEffect (now : Nat) (fin : Option Frame) (s : State) : State :=
  if timeoutFires s.cfg s.ctl now then
    ({ s with ctl := { s.ctl with engaged := false } } : State).respond
      (.ticked (some (disableFrame s.cfg)))
  else
    match triggerOf s.cfg fin with
    | none => s.respond (.ticked none)
    | some m =>
      ({ s with ctl := recordTrigger s.cfg now m } : State).respond
        (.ticked (if s.ctl.engaged then none else some (enableFrame s.cfg)))

/-- TICK (R150). -/
def execTick (now : Nat) (fin : Option Frame) (s : State) : Host.Outcome State Fault Refusal :=
  match tickRefusal now fin s with
  | some r => .refused r
  | none => .next (tickEffect now fin s)

end Sys2Proof.Machine
end

