-- ==== Sys2Proof/Machine/Wire.lean ====
section
/-! DEFINITION. The ten frame classes of the first-byte map: a wire frame of the class handed to DECODE gives the
class's `decode_result` (30_encoding.md R78; opcode_table.json; DEDUCED, safe, log 5). Written from the map, row by row, and not
by calling DECODE: that the two agree is a statement. -/

namespace Sys2Proof.Machine

/-- A frame whose status byte is recognised: a message, unless a data byte breaks the wire contract (R103, R104). -/
def recognisedFrame (k : StatusKind) (ch : Nibble) (data : DataBytes) (tsl : Nat) (s : State) :
    Host.Outcome State Fault Refusal :=
  if breaksContract data then .refused .dataBit7
  else .next (s.respond (.decoded (.ok (messageOf k ch data tsl))))

/-- A frame dropped with a soft verdict, its data bytes not examined (R101, R102, R209). -/
def droppedFrame (v : DecodeOut) (s : State) : Host.Outcome State Fault Refusal :=
  .next (s.respond (.decoded v))

/-- NOTE_OFF. -/
def execNoteOff (ch : Nibble) (data : DataBytes) (tsl : Nat) (s : State) :
    Host.Outcome State Fault Refusal :=
  recognisedFrame .noteOff ch data tsl s

/-- NOTE_ON. -/
def execNoteOn (ch : Nibble) (data : DataBytes) (tsl : Nat) (s : State) :
    Host.Outcome State Fault Refusal :=
  recognisedFrame .noteOn ch data tsl s

/-- CONTROL_CHANGE. -/
def execControlChange (ch : Nibble) (data : DataBytes) (tsl : Nat) (s : State) :
    Host.Outcome State Fault Refusal :=
  recognisedFrame .controlChange ch data tsl s

/-- PROGRAM_CHANGE. -/
def execProgramChange (ch : Nibble) (data : DataBytes) (tsl : Nat) (s : State) :
    Host.Outcome State Fault Refusal :=
  recognisedFrame .programChange ch data tsl s

/-- UNREC_DATA: a first byte below 0x80; no running status is supplied (R57, R102). -/
def execUnrecData (_low : BitVec 7) (_data : DataBytes) (_tsl : Nat) (s : State) :
    Host.Outcome State Fault Refusal :=
  droppedFrame .unrecognizedStatus s

/-- UNREC_A (R102). -/
def execUnrecA (_low : Nibble) (_data : DataBytes) (_tsl : Nat) (s : State) :
    Host.Outcome State Fault Refusal :=
  droppedFrame .unrecognizedStatus s

/-- UNREC_D (R102). -/
def execUnrecD (_low : Nibble) (_data : DataBytes) (_tsl : Nat) (s : State) :
    Host.Outcome State Fault Refusal :=
  droppedFrame .unrecognizedStatus s

/-- UNREC_E (R102). -/
def execUnrecE (_low : Nibble) (_data : DataBytes) (_tsl : Nat) (s : State) :
    Host.Outcome State Fault Refusal :=
  droppedFrame .unrecognizedStatus s

/-- EXTENDED: the bottom nibble is not a channel and is not examined (R76, R101). -/
def execExtended (_low : Nibble) (_data : DataBytes) (_tsl : Nat) (s : State) :
    Host.Outcome State Fault Refusal :=
  droppedFrame .decodeSkipped s

/-- EMPTY (R101). -/
def execEmpty (_tsl : Nat) (s : State) : Host.Outcome State Fault Refusal :=
  droppedFrame .decodeSkipped s

end Sys2Proof.Machine
end

