-- ==== Sys2Proof/Machine/Dispatch.lean ====
section
/-! DEFINITION. One arm per constructor of Instr, each a direct call of its meaning. -/

namespace Sys2Proof.Machine

def exec (i : Instr) (s : State) : Host.Outcome State Fault Refusal :=
  match i with
  | .noteOff ch data tsl => Sys2Proof.Machine.execNoteOff ch data tsl s
  | .noteOn ch data tsl => Sys2Proof.Machine.execNoteOn ch data tsl s
  | .controlChange ch data tsl => Sys2Proof.Machine.execControlChange ch data tsl s
  | .programChange ch data tsl => Sys2Proof.Machine.execProgramChange ch data tsl s
  | .unrecData low data tsl => Sys2Proof.Machine.execUnrecData low data tsl s
  | .unrecA low data tsl => Sys2Proof.Machine.execUnrecA low data tsl s
  | .unrecD low data tsl => Sys2Proof.Machine.execUnrecD low data tsl s
  | .unrecE low data tsl => Sys2Proof.Machine.execUnrecE low data tsl s
  | .extended low data tsl => Sys2Proof.Machine.execExtended low data tsl s
  | .empty tsl => Sys2Proof.Machine.execEmpty tsl s
  | .decode f => Sys2Proof.Machine.execDecode f s
  | .encode k ch data1 data2 => Sys2Proof.Machine.execEncode k ch data1 data2 s
  | .matchFrames p c => Sys2Proof.Machine.execMatchFrames p c s
  | .configure a => Sys2Proof.Machine.execConfigure a s
  | .tick now fin => Sys2Proof.Machine.execTick now fin s

end Sys2Proof.Machine
end

