-- ==== Sys2Proof/Machine/Step.lean ====
section
/-! DEFINITION. One step: the host's next action, decoded and executed, and what it returned sent on
(20_memory.md R60, R61). -/

namespace Sys2Proof.Machine

/-- One step. With nothing asked nothing happens (R208; DEDUCED, safe, log 9); a request that stands for no
instruction has no step. -/
def step (s : State) : Host.Outcome State Fault Refusal :=
  match takeAction s with
  | none => .next s
  | some (r, s') =>
    match decodeRequest r with
    | .error e => .refused (refusalOf e)
    | .ok i => deliver (exec i s')

/-- The state with the request of a table word put first in what the host will ask (DESIGN CHOICE, safe,
log 11). -/
def State.withFetchWord (s : State) (nbits w : Nat) : State :=
  { s with host := { s.host with script := .request (requestOfWord nbits w) :: s.host.script } }

end Sys2Proof.Machine
end

