-- ==== Sys2Proof/Safety.lean ====
section
/-! DEFINITION. The terms claims use: legal configurations, the invariant of 10_state.md R45, what the output
stream looks like, what the host can tell two states apart by, and runs of operations. -/

namespace Sys2Proof.Machine

/-- A decoded message holds a channel in 1..16, data in 0..127, and no data2 without data1 (R45(c), R85, R103). -/
structure LegalMsg (m : Msg) : Prop where
  channel_pos : 1 ≤ m.channel.toNat
  channel_le : m.channel.toNat ≤ 16
  data1_le : ∀ v, m.data1 = some v → v.toNat ≤ 127
  data2_le : ∀ v, m.data2 = some v → v.toNat ≤ 127
  data2_needs_data1 : m.data2.isSome → m.data1.isSome

/-- The CFG.* registers are in their legal ranges and the pair is not ambiguous (R24 to R34, R45(e)). -/
structure LegalCfg (c : CfgRegs) : Prop where
  trigCh_range : 1 ≤ c.trigCh.toNat ∧ c.trigCh.toNat ≤ 16
  actCh_range : 1 ≤ c.actCh.toNat ∧ c.actCh.toNat ≤ 16
  trigVal_le : c.trigVal.toNat ≤ 127
  actVal_le : c.actVal.toNat ≤ 127
  enVal_le : c.enVal.toNat ≤ 127
  disVal_le : c.disVal.toNat ≤ 127
  timeout_pos : 0 < c.timeout
  band : c.low.toNat ≤ c.high.toNat ∧ c.high.toNat ≤ 127
  notAmbiguous : ¬(c.trigCh = c.actCh ∧ c.trigSt = c.actSt ∧ c.trigVal = c.actVal)

/-- The arguments CONFIGURE accepts as in range: the option list of R142, ambiguity apart. -/
structure ArgsInRange (a : ConfigArgs) : Prop where
  trigCh_range : 1 ≤ a.trigCh.toNat ∧ a.trigCh.toNat ≤ 16
  actCh_range : 1 ≤ a.actCh.toNat ∧ a.actCh.toNat ≤ 16
  trigSt_kind : a.trigSt ∈ [0x8#4, 0x9#4, 0xB#4, 0xC#4]
  actSt_kind : a.actSt ∈ [0x8#4, 0x9#4, 0xB#4, 0xC#4]
  trigVal_le : a.trigVal.toNat ≤ 127
  actVal_le : a.actVal.toNat ≤ 127
  enVal_le : a.enVal.toNat ≤ 127
  disVal_le : a.disVal.toNat ≤ 127
  timeout_pos : 0 < a.timeout
  low_le : a.low.toNat ≤ 127
  high_le : a.high.toNat ≤ 127
  band : a.low.toNat ≤ a.high.toNat

/-- The trigger and the action of the arguments share channel, status and data1 (R143). -/
def SharesTriple (a : ConfigArgs) : Prop :=
  a.trigCh = a.actCh ∧ a.trigSt = a.actSt ∧ a.trigVal = a.actVal

/-- The invariant of R45, clauses (a), (c), (d), (e), (f) in that order; (f) reads the `now` of the most recent
TICK in `host.clock`. The last clause is the one the others lean on: only a configured controller engages. -/
structure StateInv (s : State) : Prop where
  engaged_ltvValid : s.ctl.engaged = true → s.ctl.ltvValid = true
  response_legal : ∀ m, s.host.response = some (.decoded (.ok m)) → LegalMsg m
  ltv_le : s.ctl.ltv.toNat ≤ 127
  cfg_legal : s.cfg.valid = true → LegalCfg s.cfg
  tlt_le_clock : s.ctl.engaged = true → s.ctl.tlt ≤ s.host.clock
  engaged_valid : s.ctl.engaged = true → s.cfg.valid = true

/-- `n` action frames, the enable frame first and then in turn. -/
def emission (c : CfgRegs) (n : Nat) : List Frame :=
  (List.range n).map fun k => if k % 2 = 0 then enableFrame c else disableFrame c

/-- The output stream alternates enable and disable, and the controller is engaged exactly when the last frame
sent was an enable (R45(b), R158, R247); before CONFIGURE nothing was sent. -/
structure Alternates (s : State) : Prop where
  sent_eq : s.host.sent = emission s.cfg s.host.sent.length
  engaged_iff : s.ctl.engaged = true ↔ s.host.sent.length % 2 = 1
  unconfigured_silent : s.cfg.valid = false → s.host.sent = []

/-- The incoming frame is a trigger match with message `m` (R156): DECODE gives `m`, and channel, status and data1
are the configured ones. -/
def IsTrigger (c : CfgRegs) (fin : Option Frame) (m : Msg) : Prop :=
  ∃ f, fin = some f ∧ decodeFrame f = .ok (.ok m) ∧
    m.channel = c.trigCh ∧ m.status = c.trigSt ∧ m.data1 = some c.trigVal

/-- The value lies in the hysteresis band (R154). -/
def InBand (c : CfgRegs) (v : Byte) : Prop :=
  (c.bounds = .inclusive ∧ c.low.toNat ≤ v.toNat ∧ v.toNat ≤ c.high.toNat) ∨
    (c.bounds = .strict ∧ c.low.toNat < v.toNat ∧ v.toNat < c.high.toNat)

/-- `T` of R162: more than CFG.TIMEOUT has passed since the last trigger, whose value lies in the band. -/
def TimedOut (s : State) (now : Nat) : Prop :=
  s.ctl.tlt + s.cfg.timeout < now ∧ InBand s.cfg s.ctl.ltv

/-- A TICK the contracts allow (R151): configured, the clock not behind the last trigger while engaged, and an
incoming frame that DECODE does not refuse. -/
def TickAllowed (s : State) (now : Nat) (fin : Option Frame) : Prop :=
  s.cfg.valid = true ∧ (s.ctl.engaged = true → s.ctl.tlt ≤ now) ∧
    ∀ f, fin = some f → ∃ out, decodeFrame f = .ok out

/-- The status byte `b` is one of the four recognised kinds on the wire (R74). -/
def Recognised (b : Byte) : Prop :=
  b.toNat / 16 = 0x8 ∨ b.toNat / 16 = 0x9 ∨ b.toNat / 16 = 0xB ∨ b.toNat / 16 = 0xC

/-- What no operation can show the host apart: two states with the same host side and the same flags CFG.VALID and
ST.ENGAGED, the same configuration once configured, and the same ST.* while engaged. What they may differ in is
"never read while CFG.VALID = 0" (R46) or "unobservable" while disengaged (93_implementation_defined.md section 3). -/
structure SameToHost (s t : State) : Prop where
  host_eq : s.host = t.host
  valid_eq : s.cfg.valid = t.cfg.valid
  cfg_eq : s.cfg.valid = true → s.cfg = t.cfg
  engaged_eq : s.ctl.engaged = t.ctl.engaged
  ctl_eq : s.ctl.engaged = true → s.ctl = t.ctl

/-- Two outcomes related: two next states the relation holds of, or two stops for the same reason. -/
def OutcomesRelated (R : State → State → Prop)
    (o o' : Host.Outcome State Fault Refusal) : Prop :=
  match o, o' with
  | .next s, .next t => R s t
  | .fault r, .fault r' => r = r'
  | .refused r, .refused r' => r = r'
  | _, _ => False

/-- A run of TICKs, the host sending what each returns before the next, stopping at the first stop (R60, R61). -/
def runTicks (ticks : List (Nat × Option Frame)) (s : State) : Host.Outcome State Fault Refusal :=
  match ticks with
  | [] => .next s
  | (now, fin) :: rest =>
    match deliver (exec (.tick now fin) s) with
    | .next t => runTicks rest t
    | .fault r => .fault r
    | .refused r => .refused r

/-- No trigger on this TICK and nothing DECODE refuses: the frame is absent, is dropped with a soft verdict, or
decodes to a message that is not the trigger (R155). -/
def NoTrigger (c : CfgRegs) (fin : Option Frame) : Prop :=
  (∀ f, fin = some f → ∃ out, decodeFrame f = .ok out) ∧ ∀ m, ¬IsTrigger c fin m

/-- Every TICK of the list carries a trigger match, is allowed, and falls where step 1 of TICK does not fire, in
the state the ones before it leave (R166). -/
def RefreshesOnly (ticks : List (Nat × Option Frame)) (s : State) : Prop :=
  match ticks with
  | [] => True
  | (now, fin) :: rest =>
    s.ctl.tlt ≤ now ∧ (∃ m, IsTrigger s.cfg fin m) ∧ ¬TimedOut s now ∧
      ∀ t, exec (.tick now fin) s = .next t → RefreshesOnly rest t

/-- The verdicts an instruction can return: for DECODE, ENCODE, MATCH, CONFIGURE and TICK the matrix of R202, beside
`ok`; for a frame class the one result R78 gives DECODE of its frame (DEDUCED, log 5). -/
def mayReturn (i : Instr) : List Verdict :=
  match i with
  | .noteOff _ _ _ | .noteOn _ _ _ | .controlChange _ _ _ | .programChange _ _ _ => [.ok]
  | .unrecData _ _ _ | .unrecA _ _ _ | .unrecD _ _ _ | .unrecE _ _ _ => [.unrecognizedStatus]
  | .extended _ _ _ | .empty _ => [.decodeSkipped]
  | .decode _ => [.ok, .decodeSkipped, .unrecognizedStatus]
  | .encode _ _ _ _ => [.ok, .malformedAction]
  | .matchFrames _ _ => [.ok]
  | .configure _ => [.ok, .ambiguousSpec, .invalidConfig]
  | .tick _ _ => [.ok]

end Sys2Proof.Machine
end

