-- ==== Sys2Proof/Certificates/Slice0/Obligations.lean ====
section
/-! DEFINITION. The statements for the provers, in the order of the spec's files. -/

open Sys2Proof Sys2Proof.Machine

/-! ### State and reset -/

/-- R46, R230 (D20): the flags and ST.* after reset, and nothing has been sent. -/
def Obligations.ResetLeavesDisengagedUnconfigured : Prop :=
  State.reset.cfg.valid = false ∧ State.reset.ctl.engaged = false ∧
    State.reset.ctl.ltvValid = false ∧ State.reset.ctl.ltv = 0#8 ∧ State.reset.ctl.tlt = 0 ∧
    State.reset.host.sent = []

/-- The invariant of R45 holds at reset. -/
def Obligations.StateInvariantHoldsAtReset : Prop := StateInv State.reset

/-- R45: every step keeps the invariant, from every state that has it. -/
def Obligations.StepKeepsStateInvariant : Prop :=
  ∀ s t, StateInv s → step s = .next t → StateInv t

/-- The alternation of the output stream holds at reset. -/
def Obligations.AlternationHoldsAtReset : Prop := Alternates State.reset

/-- R45(b), R158, R247: the frames sent are enable, disable, enable, ... in turn, and the controller is engaged
exactly when the last one was an enable. `sent` is the host's side (log 4). -/
def Obligations.StepKeepsAlternation : Prop :=
  ∀ s t, Alternates s → step s = .next t → Alternates t

/-- R46 and 93_implementation_defined.md section 3: CFG.* before a successful CONFIGURE, and ST.LTV, ST.LTV_VALID
and ST.TLT while disengaged, are unobservable. Two states that differ in nothing else stop for the same reason or
go on to two such states with the same outputs. So no statement can rest on the reset values log 1 chose. -/
def Obligations.UnreadStateNeverShows : Prop :=
  ∀ s t, SameToHost s t → OutcomesRelated SameToHost (step s) (step t)

/-- R44: ST.* has one writer, TICK, plus CONFIGURE, which initialises it; and CFG.* is written by CONFIGURE
alone. The frame of every other instruction: it changes no register, only the output record. -/
def Obligations.OnlyTickAndConfigureWriteRegisters : Prop :=
  ∀ i s t, exec i s = .next t →
    ((∀ now fin, i ≠ .tick now fin) → (∀ a, i ≠ .configure a) → t.ctl = s.ctl ∧ t.cfg = s.cfg) ∧
    ((∀ a, i ≠ .configure a) → t.cfg = s.cfg) ∧
    t.host = { s.host with response := t.host.response }

/-- "set once at construction, immutable thereafter" (R63, R141): no step changes a valid configuration. -/
def Obligations.ValidConfigurationNeverChanges : Prop :=
  ∀ s t, s.cfg.valid = true → step s = .next t → t.cfg = s.cfg

/-! ### Frames and encodings -/

/-- R52: a lane at or above `len` is not part of the frame. -/
def Obligations.LanesAboveLenAreIgnored : Prop :=
  ∀ p q : FramePort, p.len = q.len → p.tsl = q.tsl →
    (1 ≤ p.len.toNat → p.lane0 = q.lane0) → (2 ≤ p.len.toNat → p.lane1 = q.lane1) →
    (3 ≤ p.len.toNat → p.lane2 = q.lane2) →
    frameOfPort p = frameOfPort q ∧ (frameList (frameOfPort p)).length = p.len.toNat

/-- R13: when its valid bit is 0 a value field is not read by any rule. -/
def Obligations.InvalidPortValuesAreIgnored : Prop :=
  ∀ sel p v,
    (p.data1.valid = false → decodeOp sel { p with data1 := ⟨false, v⟩ } = decodeOp sel p) ∧
    (p.data2.valid = false → decodeOp sel { p with data2 := ⟨false, v⟩ } = decodeOp sel p) ∧
    (p.frameValid = false → ∀ f, decodeOp 0b100#3 { p with frameA := f } = decodeOp 0b100#3 p)

/-- R74: the codes of the four kinds, `kind` the inverse of `nib` on them and none elsewhere, and the status byte of
a kind and a channel. -/
def Obligations.StatusKindCodes : Prop :=
  nibOf .noteOff = 0x8#4 ∧ nibOf .noteOn = 0x9#4 ∧ nibOf .controlChange = 0xB#4 ∧
    nibOf .programChange = 0xC#4 ∧ (∀ n k, kindOf n = some k ↔ nibOf k = n) ∧
    (∀ n, kindOf n = none ↔ n ∉ [0x8#4, 0x9#4, 0xB#4, 0xC#4]) ∧
    ∀ k (ch : Channel), 1 ≤ ch.toNat → ch.toNat ≤ 16 →
      (statusByte k ch).toNat = (nibOf k).toNat * 16 + (ch.toNat - 1)

/-- Every instruction, with every operand at every value, is read back from its own request. -/
def Obligations.DecodeOfEncodedInstruction : Prop :=
  ∀ i : Instr, decodeRequest (encodeRequest i) = .ok i

/-- R54, R71, R81: the instruction of a wire frame gives the frame's bytes back, none dropped. -/
def Obligations.EncodeOfDecodedWireFrame : Prop :=
  ∀ bytes tsl i, decodeWire bytes tsl = .ok i → encodeRequest i = .wire bytes tsl

/-- R70: frames of 0 to 3 bytes are instructions; a longer one is rejected, and a step asked for it has none. -/
def Obligations.FramesHaveAtMostThreeBytes : Prop :=
  (∀ bytes tsl, (∃ i, decodeWire bytes tsl = .ok i) ↔ bytes.length ≤ 3) ∧
    ∀ bytes tsl rest s, 3 < bytes.length → s.host.script = .request (.wire bytes tsl) :: rest →
      step s = .refused .frameTooLong

/-- R90 (D2): the select codes 101, 110, 111 are refused. -/
def Obligations.UnassignedSelectIsRefused : Prop :=
  ∀ sel ports rest s, sel ∈ [0b101#3, 0b110#3, 0b111#3] →
    s.host.script = .request (.op sel ports) :: rest → step s = .refused .unassignedSelect

/-- Words written out from R71, R78 and R90 decode to what they stand for. -/
def Obligations.WrittenWordsDecode : Prop :=
  decodeWire [0b10001010#8, 0b01000000#8] 0 = .ok (.noteOff 0xA#4 (.one 64#8) 0) ∧
    decodeWire [0b10111111#8, 0b01111111#8, 0b00000001#8] 7 =
      .ok (.controlChange 0xF#4 (.two 127#8 1#8) 7) ∧
    decodeWire [0b01011010#8] 0 = .ok (.unrecData 0b1011010#7 .none 0) ∧
    decodeWire [0b11111000#8] 0 = .ok (.extended 0x8#4 .none 0) ∧
    decodeOp 0b100#3 zeroPorts = .ok (.tick 0 none)

/-! ### Steps -/

/-- A step runs the decoded instruction: the request at the head of the host's script is removed (the clock noted
if it is a TICK), decoded, executed, and whatever frame a TICK returned is sent. -/
def Obligations.StepRunsDecodedRequest : Prop :=
  ∀ s r rest i, s.host.script = .request r :: rest → decodeRequest r = .ok i →
    step s = deliver (exec i
      { s with host := { s.host with script := rest, clock := clockAfter s.host.clock r } })

/-- R60, R216, R218: a polling iteration reads the clock, takes one answer from the input source, requests TICK
with both, and sends what it returned. -/
def Obligations.PollRunsOneTick : Prop :=
  ∀ s dt rest, s.host.script = .poll dt :: rest →
    step s = deliver (exec (.tick (s.host.clock + dt) (s.host.input.headD none))
      { s with host := { s.host with
          script := rest, clock := s.host.clock + dt, input := s.host.input.tail } })

/-- R218, R151(b): a polling iteration reads a clock that does not run backwards, so in a state of the invariant it
is never refused for the clock. The clock is the host's side (log 4). -/
def Obligations.PolledClockNeverRunsBackwards : Prop :=
  ∀ s dt rest, StateInv s → s.host.script = .poll dt :: rest → step s ≠ .refused .clockBackwards

/-- R208: nothing happens between two operations. -/
def Obligations.NothingHappensUnasked : Prop :=
  ∀ s, s.host.script = [] → step s = .next s

/-! ### The frame classes and DECODE -/

/-- opcode_table.json: each class completes with its `decode_result`; the four recognised ones on every frame that
keeps the wire contract (R101, R102, R104). -/
def Obligations.FrameClassesComplete : Prop :=
  ∀ (n : Nibble) (x : BitVec 7) (d : DataBytes) (tsl : Nat) (s : State),
    ((∀ b ∈ dataList d, b.toNat ≤ 127) →
      exec (.noteOff n d tsl) s = .next (s.respond (.decoded (.ok
        ⟨BitVec.ofNat 5 (n.toNat + 1), .noteOff, (dataList d)[0]?, (dataList d)[1]?, tsl⟩))) ∧
      exec (.noteOn n d tsl) s = .next (s.respond (.decoded (.ok
        ⟨BitVec.ofNat 5 (n.toNat + 1), .noteOn, (dataList d)[0]?, (dataList d)[1]?, tsl⟩))) ∧
      exec (.controlChange n d tsl) s = .next (s.respond (.decoded (.ok
        ⟨BitVec.ofNat 5 (n.toNat + 1), .controlChange, (dataList d)[0]?, (dataList d)[1]?, tsl⟩))) ∧
      exec (.programChange n d tsl) s = .next (s.respond (.decoded (.ok
        ⟨BitVec.ofNat 5 (n.toNat + 1), .programChange, (dataList d)[0]?, (dataList d)[1]?, tsl⟩)))) ∧
    exec (.unrecData x d tsl) s = .next (s.respond (.decoded .unrecognizedStatus)) ∧
    exec (.unrecA n d tsl) s = .next (s.respond (.decoded .unrecognizedStatus)) ∧
    exec (.unrecD n d tsl) s = .next (s.respond (.decoded .unrecognizedStatus)) ∧
    exec (.unrecE n d tsl) s = .next (s.respond (.decoded .unrecognizedStatus)) ∧
    exec (.extended n d tsl) s = .next (s.respond (.decoded .decodeSkipped)) ∧
    exec (.empty tsl) s = .next (s.respond (.decoded .decodeSkipped))

/-- R103 (D6) for the four recognised classes: a data byte above 127 has no step. -/
def Obligations.FrameClassesRefuseBadData : Prop :=
  ∀ (n : Nibble) (d : DataBytes) (tsl : Nat) (s : State), (∃ b ∈ dataList d, 128 ≤ b.toNat) →
    exec (.noteOff n d tsl) s = .refused .dataBit7 ∧ exec (.noteOn n d tsl) s = .refused .dataBit7 ∧
    exec (.controlChange n d tsl) s = .refused .dataBit7 ∧
    exec (.programChange n d tsl) s = .refused .dataBit7

/-- R78: the first-byte map and DECODE's pseudocode agree on every frame, in every state. -/
def Obligations.FrameClassAgreesWithDecode : Prop :=
  ∀ f s, exec (instrOfFrame f) s = exec (.decode f) s

/-- R101, R203: DecodeSkipped on an empty frame and on an extended status byte, nothing else changed; inside TICK
such a frame, or none, is no trigger. -/
def Obligations.DecodeSkipsEmptyAndExtended : Prop :=
  ∀ f s, (f.bytes = .empty ∨ ∃ b0 d, f.bytes = .bytes b0 d ∧ 0xF0 ≤ b0.toNat) →
    exec (.decode f) s = .next (s.respond (.decoded .decodeSkipped)) ∧
    ∀ now fin t, (fin = none ∨ fin = some f) → exec (.tick now fin) s = .next t →
      t.ctl.ltv = s.ctl.ltv ∧ t.ctl.tlt = s.ctl.tlt ∧ (t.ctl.engaged = true → s.ctl.engaged = true)

/-- R102, R204: UnrecognizedStatus on the eleven codes below 0xF that are no kind, nothing else changed; inside TICK
such a frame is no trigger, and the verdict is not surfaced. -/
def Obligations.DecodeReportsUnrecognizedStatus : Prop :=
  ∀ b0 d tsl s, b0.toNat / 16 ∈ [0x0, 0x1, 0x2, 0x3, 0x4, 0x5, 0x6, 0x7, 0xA, 0xD, 0xE] →
    exec (.decode ⟨.bytes b0 d, tsl⟩) s = .next (s.respond (.decoded .unrecognizedStatus)) ∧
    ∀ now t, exec (.tick now (some ⟨.bytes b0 d, tsl⟩)) s = .next t →
      t.ctl.ltv = s.ctl.ltv ∧ t.ctl.tlt = s.ctl.tlt ∧ (t.ctl.engaged = true → s.ctl.engaged = true) ∧
      ∃ out, t.host.response = some (.ticked out)

/-- R103 (the spec's decision D6): a recognised status byte with a data byte above 127 has no result; every data byte DECODE returns
is in 0..127. -/
def Obligations.DecodeRefusesBadData : Prop :=
  (∀ b0 d tsl s, Recognised b0 → (∃ b ∈ dataList d, 128 ≤ b.toNat) →
      exec (.decode ⟨.bytes b0 d, tsl⟩) s = .refused .dataBit7) ∧
    ∀ f s t m v, exec (.decode f) s = .next t → t.host.response = some (.decoded (.ok m)) →
      (m.data1 = some v ∨ m.data2 = some v) → v.toNat ≤ 127

/-- R104: the fields of the message, whatever the kind. -/
def Obligations.DecodeExtractsFields : Prop :=
  ∀ b0 d tsl s, Recognised b0 → (∀ b ∈ dataList d, b.toNat ≤ 127) →
    ∃ m : Msg, exec (.decode ⟨.bytes b0 d, tsl⟩) s = .next (s.respond (.decoded (.ok m))) ∧
      m.channel.toNat = b0.toNat % 16 + 1 ∧ (nibOf m.status).toNat = b0.toNat / 16 ∧
      m.data1 = (dataList d)[0]? ∧ m.data2 = (dataList d)[1]? ∧ m.tsl = tsl

/-- R105: the same frame gives the same outcome in every state, and every frame is covered: an output, or, only when
a recognised status byte comes with a data byte of 128 or more, the refusal. -/
def Obligations.DecodeIsPureAndTotal : Prop :=
  ∀ f, (∃ out, ∀ s, exec (.decode f) s = .next (s.respond (.decoded out))) ∨
    (∃ b0 d, f.bytes = .bytes b0 d ∧ Recognised b0 ∧ ∃ b ∈ dataList d, 128 ≤ b.toNat) ∧
      ∀ s, exec (.decode f) s = .refused .dataBit7

/-! ### ENCODE and MATCH -/

/-- R106, R108: the frame ENCODE builds, the channel formula as R108 has it on the 5-bit port; MalformedAction on
data2 without data1. On a channel outside 1..16 it rests on the spec's decision D8 (log 6). -/
def Obligations.EncodeBuildsFrame : Prop :=
  ∀ k ch (d1 d2 : Option Byte) s,
    (d1 = none → d2 ≠ none → exec (.encode k ch d1 d2) s = .next (s.respond (.encoded .malformedAction))) ∧
    ((d1 = none → d2 = none) → ∃ f b0, exec (.encode k ch d1 d2) s = .next (s.respond (.encoded (.ok f))) ∧
      frameList f = b0 :: (d1.toList ++ d2.toList).map (fun v => BitVec.ofNat 8 (v.toNat % 128)) ∧
      b0.toNat = (nibOf k).toNat * 16 + (ch.toNat + 31) % 32 % 16 ∧ f.tsl = 0)

/-- R107: MalformedAction exactly on data2 without data1; TICK never returns it. -/
def Obligations.MalformedActionExactly : Prop :=
  ∀ k ch (d1 d2 : Option Byte) s,
    (exec (.encode k ch d1 d2) s = .next (s.respond (.encoded .malformedAction)) ↔
      d1 = none ∧ d2.isSome = true) ∧
    ∀ now fin t, exec (.tick now fin) s = .next t →
      t.host.response ≠ some (.encoded .malformedAction)

/-- R110 (D8): no channel is rejected; 0 encodes as 16, and 17..31 as 1..15. -/
def Obligations.EncodeChannelOutsideRange : Prop :=
  (∀ k d1 d2 s, exec (.encode k 0#5 d1 d2) s = exec (.encode k 16#5 d1 d2) s) ∧
    (∀ k (n : Nat) d1 d2 s, 1 ≤ n → n ≤ 15 →
      exec (.encode k (BitVec.ofNat 5 (n + 16)) d1 d2) s = exec (.encode k (BitVec.ofNat 5 n) d1 d2) s) ∧
    ∀ k ch d1 d2 s, ∃ t, exec (.encode k ch d1 d2) s = .next t

/-- R112, R113: true exactly when neither frame is empty and the pattern's bytes lead the candidate's. -/
def Obligations.MatchIsNonemptyPrefix : Prop :=
  ∀ p c s, ∃ bit, exec (.matchFrames p c) s = .next (s.respond (.matched bit)) ∧
    (bit = true ↔ frameList p ≠ [] ∧ frameList c ≠ [] ∧ frameList p <+: frameList c)

/-- R115: neither `tsl` nor a byte of the candidate at or above the pattern's length is compared. -/
def Obligations.MatchIgnoresTailAndTsl : Prop :=
  ∀ p p' c c' s, p.bytes = p'.bytes → c.bytes ≠ .empty → c'.bytes ≠ .empty →
    (frameList c).take (frameList p).length = (frameList c').take (frameList p).length →
    exec (.matchFrames p c) s = exec (.matchFrames p' c') s

/-- The round trip of 40_codec.md section 4: DECODE of what ENCODE built from valid operands gives them back, the
`tsl` 0. The spec marks the clause on absent operands as its own inference. -/
def Obligations.DecodeAfterEncode : Prop :=
  ∀ k (ch : Channel) (d1 d2 : Option Byte) s, 1 ≤ ch.toNat → ch.toNat ≤ 16 →
    (∀ v, d1 = some v → v.toNat ≤ 127) → (∀ v, d2 = some v → v.toNat ≤ 127) →
    (d1 = none → d2 = none) →
    ∃ f, exec (.encode k ch d1 d2) s = .next (s.respond (.encoded (.ok f))) ∧
      exec (.decode f) s = .next (s.respond (.decoded (.ok ⟨ch, k, d1, d2, 0⟩)))

/-- The other direction, which the spec marks as its own inference (40_codec.md section 4). -/
def Obligations.EncodeAfterDecode : Prop :=
  ∀ f s m, exec (.decode f) s = .next (s.respond (.decoded (.ok m))) →
    ∃ g, exec (.encode m.status m.channel m.data1 m.data2) s = .next (s.respond (.encoded (.ok g))) ∧
      g.bytes = f.bytes

/-- The spec's own inference of 40_codec.md section 4: on a decodable frame, MATCH against the trigger pattern
agrees with the trigger test; on a frame dropped with a soft verdict it is 0. -/
def Obligations.MatchAgreesWithTriggerTest : Prop :=
  ∀ c f s, LegalCfg c →
    (∀ m, decodeFrame f = .ok (.ok m) →
      ∃ bit, exec (.matchFrames (triggerPattern c) f) s = .next (s.respond (.matched bit)) ∧
        (bit = true ↔ m.channel = c.trigCh ∧ m.status = c.trigSt ∧ m.data1 = some c.trigVal)) ∧
    ((decodeFrame f = .ok .decodeSkipped ∨ decodeFrame f = .ok .unrecognizedStatus) →
      exec (.matchFrames (triggerPattern c) f) s = .next (s.respond (.matched false)))

/-! ### CONFIGURE -/

/-- R140: refused once configured; InvalidConfig on any argument out of range, then AmbiguousSpec, each with no
register written; otherwise every CFG.* register takes its argument and ST.* its reset value. -/
def Obligations.ConfigureFollowsItsPseudocode : Prop :=
  ∀ a s,
    (s.cfg.valid = true → exec (.configure a) s = .refused .alreadyConfigured) ∧
    (s.cfg.valid = false → ¬ArgsInRange a →
      exec (.configure a) s = .next (s.respond (.configured .invalidConfig))) ∧
    (s.cfg.valid = false → ArgsInRange a → SharesTriple a →
      exec (.configure a) s = .next (s.respond (.configured .ambiguousSpec))) ∧
    (s.cfg.valid = false → ArgsInRange a → ¬SharesTriple a →
      ∃ kt ka, nibOf kt = a.trigSt ∧ nibOf ka = a.actSt ∧
        exec (.configure a) s = .next
          { cfg := ⟨true, a.trigCh, kt, a.trigVal, a.actCh, ka, a.actVal, a.enVal, a.disVal, a.timeout,
              a.low, a.high, a.bounds, a.vsrc⟩
            ctl := ⟨false, 0#8, false, 0⟩
            host := { s.host with response := some (.configured .ok) } })

/-- R87: BOUNDS and VSRC take their defaults when the host does not supply them, their bits otherwise. -/
def Obligations.ConfigureChoicesDefault : Prop :=
  ∀ ports a, decodeOp 0b011#3 ports = .ok (.configure a) →
    (ports.config.bounds = none → a.bounds = .inclusive) ∧
    (ports.config.bounds = some 0#1 → a.bounds = .inclusive) ∧
    (ports.config.bounds = some 1#1 → a.bounds = .strict) ∧
    (ports.config.vsrc = none → a.vsrc = .data2ElseData1) ∧
    (ports.config.vsrc = some 0#1 → a.vsrc = .data2ElseData1) ∧
    (ports.config.vsrc = some 1#1 → a.vsrc = .data1)

/-- R141, R145 (D16): a CONFIGURE that raised a verdict leaves every TICK refused, and one with corrected arguments
may follow and succeed. -/
def Obligations.FailedConfigureMayBeRetried : Prop :=
  ∀ a b s t v, exec (.configure a) s = .next t → t.host.response = some (.configured v) → v ≠ .ok →
    (∀ now fin, exec (.tick now fin) t = .refused .notConfigured) ∧
    (ArgsInRange b → ¬SharesTriple b →
      ∃ u, exec (.configure b) t = .next u ∧ u.host.response = some (.configured .ok) ∧
        u.cfg.valid = true ∧ u.ctl = ⟨false, 0#8, false, 0⟩)

/-- The byte-level reading of AmbiguousSpec, the spec's own inference in R143: the shared triple is exactly the
condition under which the trigger pattern leads the enable frame, and the disable frame. -/
def Obligations.AmbiguousExactlyWhenOwnFramesMatch : Prop :=
  ∀ c s, 1 ≤ c.trigCh.toNat → c.trigCh.toNat ≤ 16 → 1 ≤ c.actCh.toNat → c.actCh.toNat ≤ 16 →
    c.trigVal.toNat ≤ 127 → c.actVal.toNat ≤ 127 →
    ∃ bit, exec (.matchFrames (triggerPattern c) (enableFrame c)) s = .next (s.respond (.matched bit)) ∧
      exec (.matchFrames (triggerPattern c) (disableFrame c)) s = .next (s.respond (.matched bit)) ∧
      (bit = true ↔ c.trigCh = c.actCh ∧ c.trigSt = c.actSt ∧ c.trigVal = c.actVal)

/-! ### TICK -/

/-- R146, R147: the bytes of the action frames under a legal configuration, and that ENCODE of the action builds
them. -/
def Obligations.ActionFramesAreEncodedActions : Prop :=
  ∀ c s, LegalCfg c →
    (∃ b0 : Byte, b0.toNat = (nibOf c.actSt).toNat * 16 + (c.actCh.toNat - 1) ∧
      frameList (enableFrame c) = [b0, c.actVal, c.enVal] ∧ (enableFrame c).tsl = 0 ∧
      frameList (disableFrame c) = [b0, c.actVal, c.disVal] ∧ (disableFrame c).tsl = 0) ∧
    exec (.encode c.actSt c.actCh (some c.actVal) (some c.enVal)) s =
      .next (s.respond (.encoded (.ok (enableFrame c)))) ∧
    exec (.encode c.actSt c.actCh (some c.actVal) (some c.disVal)) s =
      .next (s.respond (.encoded (.ok (disableFrame c))))

/-- R150 to R160: TICK on every allowed input, by what holds of the entry state and the frame; and no step on any
other. `Select(m)` is written out from R157: data2 if VSRC asks for it and the message has it, else the data1 a
match must carry. The timeout before the trigger is the spec's decision D17 (log 13). -/
def Obligations.TickFollowsItsPseudocode : Prop :=
  ∀ now fin s,
    (¬TickAllowed s now fin → ∃ r, exec (.tick now fin) s = .refused r) ∧
    (TickAllowed s now fin → s.ctl.engaged = true → TimedOut s now →
      exec (.tick now fin) s = .next
        { cfg := s.cfg
          ctl := ⟨false, s.ctl.ltv, s.ctl.ltvValid, s.ctl.tlt⟩
          host := { s.host with response := some (.ticked (some (disableFrame s.cfg))) } }) ∧
    (TickAllowed s now fin → ¬(s.ctl.engaged = true ∧ TimedOut s now) → (∀ m, ¬IsTrigger s.cfg fin m) →
      exec (.tick now fin) s = .next
        { cfg := s.cfg, ctl := s.ctl, host := { s.host with response := some (.ticked none) } }) ∧
    ∀ m, TickAllowed s now fin → ¬(s.ctl.engaged = true ∧ TimedOut s now) → IsTrigger s.cfg fin m →
      exec (.tick now fin) s = .next
        { cfg := s.cfg
          ctl := ⟨true,
            if s.cfg.vsrc = .data2ElseData1 then m.data2.getD s.cfg.trigVal else s.cfg.trigVal,
            true, now⟩
          host := { s.host with
            response := some (.ticked (if s.ctl.engaged then none else some (enableFrame s.cfg))) } }

/-- R151 (D4, D6, D16) and R225: which breach gives which refusal, tested in the order of the pseudocode. -/
def Obligations.TickRefusals : Prop :=
  ∀ now fin s,
    (s.cfg.valid = false → exec (.tick now fin) s = .refused .notConfigured) ∧
    (s.cfg.valid = true → s.ctl.engaged = true → now < s.ctl.tlt →
      exec (.tick now fin) s = .refused .clockBackwards) ∧
    (s.cfg.valid = true → (s.ctl.engaged = true → s.ctl.tlt ≤ now) →
      (∃ b0 d tsl, fin = some ⟨.bytes b0 d, tsl⟩ ∧ Recognised b0 ∧ ∃ b ∈ dataList d, 128 ≤ b.toNat) →
      exec (.tick now fin) s = .refused .dataBit7)

/-- R153: the comparison is strict, at its boundary, on a TICK without a frame. -/
def Obligations.TimeoutBoundaryIsStrict : Prop :=
  ∀ s, s.cfg.valid = true → s.ctl.engaged = true → InBand s.cfg s.ctl.ltv →
    exec (.tick (s.ctl.tlt + s.cfg.timeout) none) s = .next (s.respond (.ticked none)) ∧
    ∃ t, exec (.tick (s.ctl.tlt + s.cfg.timeout + 1) none) s = .next t ∧ t.ctl.engaged = false ∧
      t.host.response = some (.ticked (some (disableFrame s.cfg)))

/-- R156 on the wire: a disengaged controller engages exactly on a frame whose first two bytes are the trigger's
status byte and value; data2, if present, takes no part, and a 1-byte frame never matches. -/
def Obligations.EngagesExactlyOnTriggerBytes : Prop :=
  ∀ s now f t, s.ctl.engaged = false → LegalCfg s.cfg → exec (.tick now (some f)) s = .next t →
    (t.ctl.engaged = true ↔ ∃ b0 rest, frameList f = b0 :: s.cfg.trigVal :: rest ∧
      b0.toNat = (nibOf s.cfg.trigSt).toNat * 16 + (s.cfg.trigCh.toNat - 1))

/-- R153, R163: the frame of TICK. It writes no CFG.* register and nothing of the host's but the output record;
ST.LTV, ST.LTV_VALID and ST.TLT change on a trigger match only, ST.TLT then being this TICK's `now`; engaging
takes a match, and disengaging takes the timeout. -/
def Obligations.TickWritesOnlyWhatItNames : Prop :=
  ∀ now fin s t, exec (.tick now fin) s = .next t →
    t.cfg = s.cfg ∧ t.host = { s.host with response := t.host.response } ∧
    ((t.ctl.ltv = s.ctl.ltv ∧ t.ctl.ltvValid = s.ctl.ltvValid ∧ t.ctl.tlt = s.ctl.tlt ∧
        (t.ctl.engaged = true → s.ctl.engaged = true)) ∨
      (t.ctl.tlt = now ∧ t.ctl.ltvValid = true ∧ t.ctl.engaged = true ∧ ∃ m, IsTrigger s.cfg fin m)) ∧
    (s.ctl.engaged = true → t.ctl.engaged = false → TimedOut s now)

/-- The at-most-one rule of 41_controller.md section 3 with R45(b): a step sends nothing, or one enable frame
while disengaged on entry, or one disable frame while engaged on entry. -/
def Obligations.StepSendsAtMostOneActionFrame : Prop :=
  ∀ s t, step s = .next t →
    t.host.sent = s.host.sent ∨
    (s.ctl.engaged = false ∧ t.ctl.engaged = true ∧ t.host.sent = s.host.sent ++ [enableFrame s.cfg]) ∨
    (s.ctl.engaged = true ∧ t.ctl.engaged = false ∧ t.host.sent = s.host.sent ++ [disableFrame s.cfg])

/-- The spec's own inference of 41_controller.md section 5 (loopback): a TICK given the controller's own enable or
disable frame completes, engages nothing and records nothing. -/
def Obligations.OwnFramesNeverTrigger : Prop :=
  ∀ s now f, s.cfg.valid = true → LegalCfg s.cfg → (s.ctl.engaged = true → s.ctl.tlt ≤ now) →
    (f = enableFrame s.cfg ∨ f = disableFrame s.cfg) →
    ∃ t, exec (.tick now (some f)) s = .next t ∧ t.ctl.ltv = s.ctl.ltv ∧ t.ctl.tlt = s.ctl.tlt ∧
      (t.ctl.engaged = true → s.ctl.engaged = true)

/-- R166: any number of trigger matches while engaged emit nothing, provided step 1 fires on none of them; they only
update ST.LTV and ST.TLT, which the last one leaves. -/
def Obligations.RefreshesEmitNothing : Prop :=
  ∀ ticks s, s.cfg.valid = true → s.ctl.engaged = true → RefreshesOnly ticks s →
    ∃ t, runTicks ticks s = .next t ∧ t.ctl.engaged = true ∧ t.host.sent = s.host.sent ∧
      (ticks ≠ [] → t.host.response = some (.ticked none)) ∧ t.cfg = s.cfg ∧
      ∀ now fin m, ticks.getLast? = some (now, fin) → IsTrigger s.cfg fin m →
        t.ctl = ⟨true,
          if s.cfg.vsrc = .data2ElseData1 then m.data2.getD s.cfg.trigVal else s.cfg.trigVal, true, now⟩

/-- R167 in general, with the inference of R168: the first TICK past the timeout sends exactly one disable frame,
and no TICK without a trigger sends another, however many follow. -/
def Obligations.TimeoutSendsExactlyOneDisable : Prop :=
  ∀ s now fin ticks, s.cfg.valid = true → s.ctl.engaged = true → TimedOut s now →
    NoTrigger s.cfg fin → (∀ p ∈ ticks, NoTrigger s.cfg p.2) →
    ∃ t, runTicks ((now, fin) :: ticks) s = .next t ∧ t.ctl.engaged = false ∧
      t.host.sent = s.host.sent ++ [disableFrame s.cfg] ∧
      t.ctl.ltv = s.ctl.ltv ∧ t.ctl.tlt = s.ctl.tlt

/-- The spec's own inference of 41_controller.md section 4 (held outside the band): however long the silence, the
controller stays engaged, unchanged, and sends nothing. -/
def Obligations.HeldOutsideBandForever : Prop :=
  ∀ s ticks, s.cfg.valid = true → s.ctl.engaged = true → ¬InBand s.cfg s.ctl.ltv →
    (∀ p ∈ ticks, s.ctl.tlt ≤ p.1 ∧ NoTrigger s.cfg p.2) →
    ∃ t, runTicks ticks s = .next t ∧ t.ctl = s.ctl ∧ t.cfg = s.cfg ∧ t.host.sent = s.host.sent

/-- R240: while engaged and without a trigger, TICKs up to the timeout change nothing, and the first TICK beyond it
sends the disable frame if the last value is in band. -/
def Obligations.DisablesAtFirstTickPastTimeout : Prop :=
  ∀ s ticks now fin, s.cfg.valid = true → s.ctl.engaged = true → InBand s.cfg s.ctl.ltv →
    (∀ p ∈ ticks, s.ctl.tlt ≤ p.1 ∧ p.1 ≤ s.ctl.tlt + s.cfg.timeout ∧ NoTrigger s.cfg p.2) →
    s.ctl.tlt + s.cfg.timeout < now → NoTrigger s.cfg fin →
    (∃ u, runTicks ticks s = .next u ∧ u.ctl = s.ctl ∧ u.host.sent = s.host.sent) ∧
    ∃ t, runTicks (ticks ++ [(now, fin)]) s = .next t ∧ t.ctl.engaged = false ∧
      t.host.sent = s.host.sent ++ [disableFrame s.cfg]

/-- R154: under `Strict` bounds with HIGH at most LOW + 1 no value is in band, and an engaged controller stays
engaged on every TICK that completes. -/
def Obligations.NarrowStrictBandNeverReleases : Prop :=
  ∀ now fin s, s.cfg.valid = true → s.cfg.bounds = .strict → s.cfg.high.toNat ≤ s.cfg.low.toNat + 1 →
    s.ctl.engaged = true → TickAllowed s now fin →
    ∃ t, exec (.tick now fin) s = .next t ∧ t.ctl.engaged = true ∧
      ∀ f, t.host.response ≠ some (.ticked (some f))

/-- D17, the spec's decision on the one input where both steps could fire: the disable frame is returned, the
matching frame is dropped unrecorded, and the same frame on a later TICK engages again. -/
def Obligations.CoincidentTriggerIsDropped : Prop :=
  ∀ now now' fin s m, TickAllowed s now fin → s.ctl.engaged = true → TimedOut s now →
    IsTrigger s.cfg fin m →
    ∃ t u, exec (.tick now fin) s = .next t ∧ t.ctl.engaged = false ∧
      t.host.response = some (.ticked (some (disableFrame s.cfg))) ∧
      t.ctl.ltv = s.ctl.ltv ∧ t.ctl.tlt = s.ctl.tlt ∧
      exec (.tick now' fin) t = .next u ∧ u.ctl.engaged = true ∧ u.ctl.tlt = now' ∧
      u.host.response = some (.ticked (some (enableFrame s.cfg)))

/-- R84 (D10), U5: no result of TICK depends on the frame's `tsl`. -/
def Obligations.TickNeverReadsTsl : Prop :=
  ∀ now bytes tsl tsl' s,
    exec (.tick now (some ⟨bytes, tsl⟩)) s = exec (.tick now (some ⟨bytes, tsl'⟩)) s

/-- R70 (D5): an absent frame and an empty frame have the same effect in TICK. -/
def Obligations.AbsentAndEmptyFramesActAlike : Prop :=
  ∀ now tsl s, exec (.tick now none) s = exec (.tick now (some ⟨.empty, tsl⟩)) s

/-! ### Verdicts -/

/-- Every completed instruction returns an output record, and its verdict is one `mayReturn` allows: for the five
operations the matrix of R202, for a frame class the one DECODE result R78 gives it, a frame class being DECODE of
its frame by the model's reading (DEDUCED, log 5). Each of the five verdicts is reached by the operation R202 gives
it to. -/
def Obligations.VerdictsAreThoseOfTheMatrix : Prop :=
  (∀ i s t, exec i s = .next t → ∃ r, t.host.response = some r ∧ verdictOf r ∈ mayReturn i) ∧
    (∃ f s, exec (.decode f) s = .next (s.respond (.decoded .decodeSkipped))) ∧
    (∃ f s, exec (.decode f) s = .next (s.respond (.decoded .unrecognizedStatus))) ∧
    (∃ k ch d1 d2 s, exec (.encode k ch d1 d2) s = .next (s.respond (.encoded .malformedAction))) ∧
    (∃ a s, exec (.configure a) s = .next (s.respond (.configured .ambiguousSpec))) ∧
    ∃ a s, exec (.configure a) s = .next (s.respond (.configured .invalidConfig))

/-- R201 (D22): the codes. -/
def Obligations.VerdictCodes : Prop :=
  verdictCode .ok = 0 ∧ verdictCode .decodeSkipped = 1 ∧ verdictCode .unrecognizedStatus = 2 ∧
    verdictCode .malformedAction = 3 ∧ verdictCode .ambiguousSpec = 4 ∧ verdictCode .invalidConfig = 5

/-- R200, R212: an operation that raised a verdict has written no register. -/
def Obligations.VerdictsWriteNoRegister : Prop :=
  ∀ i s t r, exec i s = .next t → t.host.response = some r → verdictOf r ≠ .ok →
    t.cfg = s.cfg ∧ t.ctl = s.ctl ∧ t.host = { s.host with response := some r }
end

