-- ==== Sys2Proof/WellFormed.lean ====
section
/-! DEFINITION. Which instructions keep the contracts the source places on the caller, as far as the operands
alone show it. The decoder does not ask for it: an instruction that is not well-formed still has the meaning the
spec gives it, which for a data byte above 127 under a recognised status is a refusal. -/

namespace Sys2Proof

/-- "byte1/byte2 each in 0..127 (top bit always 0)" (R71, R80). -/
def DataBytes.wellFormed (d : DataBytes) : Bool :=
  match d with
  | .none => true
  | .one d1 => !d1.msb
  | .two d1 d2 => !d1.msb && !d2.msb

/-- The data bytes of a frame are bound by the contract only under a recognised status byte (R80). -/
def Frame.wellFormed (f : Frame) : Bool :=
  match f.bytes with
  | .empty => true
  | .bytes b0 data => (kindOf (topNibble b0)).isNone || data.wellFormed

/-- Well-formed instructions: input frames keep the wire contract (R80); ENCODE is given a channel in 1..16, as
its caller must (R110), and no data2 without data1 (R107). CONFIGURE and MATCH ask nothing of their caller. -/
def Instr.wellFormed (i : Instr) : Bool :=
  match i with
  | .noteOff _ data _ | .noteOn _ data _ | .controlChange _ data _ | .programChange _ data _ =>
    data.wellFormed
  | .unrecData _ _ _ | .unrecA _ _ _ | .unrecD _ _ _ | .unrecE _ _ _ | .extended _ _ _ | .empty _ => true
  | .decode f => f.wellFormed
  | .encode _ ch d1 d2 =>
    decide (1 ≤ ch.toNat ∧ ch.toNat ≤ Config.numChannels) && (d1.isSome || d2.isNone)
  | .matchFrames _ _ => true
  | .configure _ => true
  | .tick _ none => true
  | .tick _ (some f) => f.wellFormed

end Sys2Proof
end

