-- ==== Sys2Proof/Laws/Bits.lean ====
section
/-! SUPPORT. The fields of a status byte and the mask of a data byte, as arithmetic: each bit-field function's one
spec lemma, so that no later proof opens it. -/

namespace Sys2Proof.Machine

/-! ### Status kinds -/

theorem kindOf_eq_some_iff (n : Nibble) (k : StatusKind) : kindOf n = some k ↔ nibOf k = n := by
  revert n; cases k <;> decide

@[simp] theorem kindOf_nibOf (k : StatusKind) : kindOf (nibOf k) = some k := by cases k <;> rfl

theorem kindOf_eq_none_iff (n : Nibble) : kindOf n = none ↔ n ∉ [0x8#4, 0x9#4, 0xB#4, 0xC#4] := by
  revert n; decide

theorem nibOf_injective {k k' : StatusKind} (h : nibOf k = nibOf k') : k = k' :=
  Option.some.inj ((kindOf_nibOf k).symm.trans (h ▸ kindOf_nibOf k'))

/-! ### Nibbles -/

theorem topNibble_toNat (b : Byte) : (topNibble b).toNat = b.toNat / 16 := by
  have := b.isLt
  simp only [topNibble, BitVec.extractLsb'_toNat, Nat.shiftRight_eq_div_pow]
  omega

theorem lowNibble_toNat (b : Byte) : (lowNibble b).toNat = b.toNat % 16 := by
  simp [lowNibble, BitVec.extractLsb'_toNat]

@[simp] theorem topNibble_append (t l : Nibble) : topNibble (t ++ l) = t := by
  revert t l; decide

@[simp] theorem lowNibble_append (t l : Nibble) : lowNibble (t ++ l) = l := by
  revert t l; decide

@[simp] theorem append_nibbles (b : Byte) : topNibble b ++ lowNibble b = b := by
  revert b; decide

/-! ### Channels and status bytes -/

theorem channelOf_eq_ofNat (n : Nibble) : channelOf n = BitVec.ofNat 5 (n.toNat + 1) := by
  revert n; decide

theorem channelOf_toNat (n : Nibble) : (channelOf n).toNat = n.toNat + 1 := by
  revert n; decide

theorem channelOf_range (n : Nibble) : 1 ≤ (channelOf n).toNat ∧ (channelOf n).toNat ≤ 16 := by
  have := n.isLt
  rw [channelOf_toNat]; omega

theorem statusByte_toNat (k : StatusKind) (ch : Channel) :
    (statusByte k ch).toNat = (nibOf k).toNat * 16 + (ch.toNat + 31) % 32 % 16 := by
  revert ch; cases k <;> decide

@[simp] theorem topNibble_statusByte (k : StatusKind) (ch : Channel) :
    topNibble (statusByte k ch) = nibOf k := by
  revert ch; cases k <;> decide

theorem channelOf_lowNibble_statusByte (k : StatusKind) (ch : Channel) (h1 : 1 ≤ ch.toNat)
    (h16 : ch.toNat ≤ 16) : channelOf (lowNibble (statusByte k ch)) = ch := by
  revert ch; cases k <;> decide

theorem statusByte_lt_extended (k : StatusKind) (ch : Channel) : (statusByte k ch).toNat < 0xF0 := by
  revert ch; cases k <;> decide

/-- A recognised status byte is rebuilt from its fields. -/
theorem statusByte_of_fields {b : Byte} {k : StatusKind} (h : kindOf (topNibble b) = some k) :
    statusByte k (channelOf (lowNibble b)) = b := by
  rw [kindOf_eq_some_iff] at h
  apply BitVec.eq_of_toNat_eq
  have hb := b.isLt
  rw [statusByte_toNat, channelOf_toNat, h, topNibble_toNat, lowNibble_toNat]
  omega

/-- For channels in 1..16 a status byte determines kind and channel. -/
theorem statusByte_inj {k k' : StatusKind} {ch ch' : Channel} (h1 : 1 ≤ ch.toNat) (h16 : ch.toNat ≤ 16)
    (h1' : 1 ≤ ch'.toNat) (h16' : ch'.toNat ≤ 16) :
    statusByte k ch = statusByte k' ch' ↔ ch = ch' ∧ k = k' := by
  constructor
  · intro h
    refine ⟨?_, nibOf_injective (by simpa using congrArg topNibble h)⟩
    rw [← channelOf_lowNibble_statusByte k ch h1 h16, h, channelOf_lowNibble_statusByte k' ch' h1' h16']
  · rintro ⟨rfl, rfl⟩; rfl

/-! ### Data bytes -/

theorem msb_eq_false_iff (v : Byte) : v.msb = false ↔ v.toNat ≤ 127 := by
  rw [BitVec.msb_eq_decide, decide_eq_false_iff_not]; omega

theorem msb_eq_true_iff (v : Byte) : v.msb = true ↔ 128 ≤ v.toNat := by
  rw [BitVec.msb_eq_decide, decide_eq_true_iff]

theorem maskData_eq_ofNat (v : Byte) : maskData v = BitVec.ofNat 8 (v.toNat % 128) := by
  revert v; decide

theorem maskData_toNat_le (v : Byte) : (maskData v).toNat ≤ 127 := by
  rw [maskData_eq_ofNat, BitVec.toNat_ofNat]; omega

@[simp] theorem maskData_msb (v : Byte) : (maskData v).msb = false :=
  (msb_eq_false_iff _).2 (maskData_toNat_le v)

theorem maskData_of_le {v : Byte} (h : v.toNat ≤ 127) : maskData v = v := by
  apply BitVec.eq_of_toNat_eq
  rw [maskData_eq_ofNat, BitVec.toNat_ofNat]; omega

theorem breaksContract_eq_false_iff (d : DataBytes) :
    breaksContract d = false ↔ ∀ b ∈ dataList d, b.toNat ≤ 127 := by
  cases d <;> simp [breaksContract, dataList, msb_eq_false_iff]

theorem breaksContract_eq_true_iff (d : DataBytes) :
    breaksContract d = true ↔ ∃ b ∈ dataList d, 128 ≤ b.toNat := by
  cases d <;> simp [breaksContract, dataList, msb_eq_true_iff]

theorem data1Of_eq (d : DataBytes) : data1Of d = (dataList d)[0]? := by cases d <;> rfl

theorem data2Of_eq (d : DataBytes) : data2Of d = (dataList d)[1]? := by cases d <;> rfl

theorem data1Of_mem {d : DataBytes} {v : Byte} (h : data1Of d = some v) : v ∈ dataList d := by
  cases d <;> simp_all [data1Of, dataList]

theorem data2Of_mem {d : DataBytes} {v : Byte} (h : data2Of d = some v) : v ∈ dataList d := by
  cases d <;> simp_all [data2Of, dataList]

theorem dataList_injective {d d' : DataBytes} (h : dataList d = dataList d') : d = d' := by
  cases d <;> cases d' <;> simp_all [dataList]

/-! ### The first-byte map -/

/-- The class of a non-empty frame, by its top nibble (R78). -/
theorem classOf_of_topNibble (b : Byte) :
    classOf b =
      if b.toNat < 0x80 then .unrecData
      else if b.toNat / 16 = 0x8 then .noteOff
      else if b.toNat / 16 = 0x9 then .noteOn
      else if b.toNat / 16 = 0xA then .unrecA
      else if b.toNat / 16 = 0xB then .controlChange
      else if b.toNat / 16 = 0xC then .programChange
      else if b.toNat / 16 = 0xD then .unrecD
      else if b.toNat / 16 = 0xE then .unrecE
      else .extended := by
  revert b; decide

end Sys2Proof.Machine
end

