-- ==== Sys2Proof/Laws/State.lean ====
section
/-! SUPPORT. What each operation on the state does to each field, so that no later proof unfolds a record update. -/

namespace Sys2Proof.Machine

variable (s : State) (r : Response)

@[simp] theorem respond_cfg : (s.respond r).cfg = s.cfg := rfl
@[simp] theorem respond_ctl : (s.respond r).ctl = s.ctl := rfl
@[simp] theorem respond_response : (s.respond r).host.response = some r := rfl
@[simp] theorem respond_script : (s.respond r).host.script = s.host.script := rfl
@[simp] theorem respond_input : (s.respond r).host.input = s.host.input := rfl
@[simp] theorem respond_clock : (s.respond r).host.clock = s.host.clock := rfl
@[simp] theorem respond_sent : (s.respond r).host.sent = s.host.sent := rfl

theorem respond_host : (s.respond r).host = { s.host with response := some r } := rfl

/-- Returning a result is injective in the result. -/
theorem respond_inj {s : State} {r r' : Response} : s.respond r = s.respond r' ↔ r = r' :=
  ⟨fun h => by simpa using congrArg (fun t => t.host.response) h, fun h => h ▸ rfl⟩

/-! ### The host's sending -/

@[simp] theorem sendReturned_cfg : (sendReturned s).cfg = s.cfg := by
  unfold sendReturned; split <;> rfl
@[simp] theorem sendReturned_ctl : (sendReturned s).ctl = s.ctl := by
  unfold sendReturned; split <;> rfl
@[simp] theorem sendReturned_response : (sendReturned s).host.response = s.host.response := by
  unfold sendReturned; split <;> rfl
@[simp] theorem sendReturned_script : (sendReturned s).host.script = s.host.script := by
  unfold sendReturned; split <;> rfl
@[simp] theorem sendReturned_input : (sendReturned s).host.input = s.host.input := by
  unfold sendReturned; split <;> rfl
@[simp] theorem sendReturned_clock : (sendReturned s).host.clock = s.host.clock := by
  unfold sendReturned; split <;> rfl

theorem sendReturned_ticked_some {s : State} {f : Frame} (h : s.host.response = some (.ticked (some f))) :
    (sendReturned s).host.sent = s.host.sent ++ [f] := by
  simp [sendReturned, h]

/-- Nothing is sent unless a TICK returned a frame. -/
theorem sendReturned_of_no_frame {s : State} (h : ∀ f, s.host.response ≠ some (.ticked (some f))) :
    sendReturned s = s := by
  unfold sendReturned
  split
  · exact absurd ‹_› (h _)
  · rfl

@[simp] theorem sendReturned_respond_ticked_none :
    sendReturned (s.respond (.ticked none)) = s.respond (.ticked none) := rfl

@[simp] theorem deliver_next : deliver (.next s) = .next (sendReturned s) := rfl
@[simp] theorem deliver_refused (e : Refusal) : deliver (.refused e) = .refused e := rfl

theorem deliver_eq_next_iff {o : Host.Outcome State Fault Refusal} {t : State} :
    deliver o = .next t ↔ ∃ u, o = .next u ∧ t = sendReturned u := by
  cases o <;> simp [deliver, eq_comm]

/-! ### The host's next action -/

/-- Taking an action changes the host's side only, and neither what was sent nor the last output record. -/
theorem takeAction_frame {s u : State} {q : Request} (h : takeAction s = some (q, u)) :
    u.cfg = s.cfg ∧ u.ctl = s.ctl ∧ u.host.sent = s.host.sent ∧ u.host.response = s.host.response := by
  unfold takeAction at h
  split at h <;> simp at h <;> obtain ⟨-, rfl⟩ := h <;> simp

/-- What taking an action reads lies in the host's side. -/
theorem takeAction_eq (s : State) :
    takeAction s = (takeAction { State.reset with host := s.host }).map fun p =>
      (p.1, { s with host := p.2.host }) := by
  unfold takeAction
  dsimp only
  split <;> rfl

end Sys2Proof.Machine
end

