-- ==== Sys2Proof/Laws/Codec.lean ====
section
/-! SUPPORT. The spec lemmas of the codec: what DECODE can answer, that the frame classes agree with it, what ENCODE
builds, what MATCH tests. -/

namespace Sys2Proof.Machine

/-! ### DECODE -/

theorem recognised_iff (b : Byte) : Recognised b ↔ ∃ k, kindOf (topNibble b) = some k := by
  have hb : ∀ k, kindOf (topNibble b) = some k ↔ (nibOf k).toNat = b.toNat / 16 := fun k => by
    rw [kindOf_eq_some_iff, ← BitVec.toNat_inj, topNibble_toNat]
  simp only [Recognised, hb]
  constructor
  · rintro (h | h | h | h)
    · exact ⟨.noteOff, by simp [nibOf, h]⟩
    · exact ⟨.noteOn, by simp [nibOf, h]⟩
    · exact ⟨.controlChange, by simp [nibOf, h]⟩
    · exact ⟨.programChange, by simp [nibOf, h]⟩
  · rintro ⟨k, h⟩
    cases k <;> simp [nibOf] at h <;> omega

/-- A recognised status byte is below the extended ones. -/
theorem lt_extended_of_kind {b : Byte} {k : StatusKind} (h : kindOf (topNibble b) = some k) :
    b.toNat < 0xF0 := by
  have := (recognised_iff b).2 ⟨k, h⟩
  unfold Recognised at this
  omega

@[simp] theorem decodeFrame_empty (tsl : Nat) : decodeFrame ⟨.empty, tsl⟩ = .ok .decodeSkipped := rfl

theorem decodeFrame_extended {b0 : Byte} (h : 0xF0 ≤ b0.toNat) (d : DataBytes) (tsl : Nat) :
    decodeFrame ⟨.bytes b0 d, tsl⟩ = .ok .decodeSkipped := by
  simp [decodeFrame, h]

theorem decodeFrame_unrecognised {b0 : Byte} (hlt : b0.toNat < 0xF0) (h : kindOf (topNibble b0) = none)
    (d : DataBytes) (tsl : Nat) : decodeFrame ⟨.bytes b0 d, tsl⟩ = .ok .unrecognizedStatus := by
  simp [decodeFrame, h, Nat.not_le.2 hlt]

theorem decodeFrame_recognised {b0 : Byte} {k : StatusKind} (h : kindOf (topNibble b0) = some k)
    (d : DataBytes) (tsl : Nat) :
    decodeFrame ⟨.bytes b0 d, tsl⟩ =
      if breaksContract d then .error .dataBit7 else .ok (.ok (messageOf k (lowNibble b0) d tsl)) := by
  simp [decodeFrame, h, Nat.not_le.2 (lt_extended_of_kind h)]

/-- DECODE's one inversion: a message comes from a recognised status byte and data in contract. -/
theorem decodeFrame_eq_message_iff {f : Frame} {m : Msg} :
    decodeFrame f = .ok (.ok m) ↔
      ∃ b0 d k, f.bytes = .bytes b0 d ∧ kindOf (topNibble b0) = some k ∧ breaksContract d = false ∧
        m = messageOf k (lowNibble b0) d f.tsl := by
  obtain ⟨bytes, tsl⟩ := f
  cases bytes with
  | empty => simp
  | bytes b0 d =>
    rcases Nat.lt_or_ge b0.toNat 0xF0 with hlt | hge
    · cases hk : kindOf (topNibble b0) with
      | none => simp [decodeFrame_unrecognised hlt hk, hk]
      | some k =>
        rw [decodeFrame_recognised hk]
        cases hc : breaksContract d <;> simp [hk, hc, eq_comm (b := m)]
    · have hk : ∀ k, kindOf (topNibble b0) ≠ some k := fun k hk => by
        have := lt_extended_of_kind hk; omega
      simp [decodeFrame_extended hge, hk]

/-- DECODE refuses for one reason only, a recognised status byte with bad data (R103). -/
theorem decodeFrame_eq_error_iff {f : Frame} {r : Refusal} :
    decodeFrame f = .error r ↔
      r = .dataBit7 ∧ ∃ b0 d k, f.bytes = .bytes b0 d ∧ kindOf (topNibble b0) = some k ∧
        breaksContract d = true := by
  obtain ⟨bytes, tsl⟩ := f
  cases bytes with
  | empty => simp
  | bytes b0 d =>
    rcases Nat.lt_or_ge b0.toNat 0xF0 with hlt | hge
    · cases hk : kindOf (topNibble b0) with
      | none => simp [decodeFrame_unrecognised hlt hk, hk]
      | some k =>
        rw [decodeFrame_recognised hk]
        cases hc : breaksContract d <;> simp [hk, hc, eq_comm (b := r)]
    · have hk : ∀ k, kindOf (topNibble b0) ≠ some k := fun k hk => by
        have := lt_extended_of_kind hk; omega
      simp [decodeFrame_extended hge, hk]

theorem messageOf_legal {k : StatusKind} {ch : Nibble} {d : DataBytes} {tsl : Nat}
    (h : breaksContract d = false) : LegalMsg (messageOf k ch d tsl) where
  channel_pos := (channelOf_range ch).1
  channel_le := (channelOf_range ch).2
  data1_le v hv := (breaksContract_eq_false_iff d).1 h v (data1Of_mem hv)
  data2_le v hv := (breaksContract_eq_false_iff d).1 h v (data2Of_mem hv)
  data2_needs_data1 := by cases d <;> simp [messageOf, data1Of, data2Of]

/-- Every message DECODE returns is legal (R45(c), R85, R103). -/
theorem decodeFrame_legal {f : Frame} {m : Msg} (h : decodeFrame f = .ok (.ok m)) : LegalMsg m := by
  obtain ⟨b0, d, k, -, -, hc, rfl⟩ := decodeFrame_eq_message_iff.1 h
  exact messageOf_legal hc

/-! ### ENCODE -/

@[simp] theorem encodeFrame_both (k : StatusKind) (ch : Channel) (v1 v2 : Byte) :
    encodeFrame k ch (some v1) (some v2) =
      .ok (builtFrame (statusByte k ch) (.two (maskData v1) (maskData v2))) := rfl

@[simp] theorem encodeFrame_data1 (k : StatusKind) (ch : Channel) (v1 : Byte) :
    encodeFrame k ch (some v1) none = .ok (builtFrame (statusByte k ch) (.one (maskData v1))) := rfl

@[simp] theorem encodeFrame_none (k : StatusKind) (ch : Channel) :
    encodeFrame k ch none none = .ok (builtFrame (statusByte k ch) .none) := rfl

@[simp] theorem encodeFrame_malformed (k : StatusKind) (ch : Channel) (v2 : Byte) :
    encodeFrame k ch none (some v2) = .malformedAction := rfl

/-- ENCODE reads its channel only through the status byte. -/
theorem encodeFrame_congr {k : StatusKind} {ch ch' : Channel} (h : statusByte k ch = statusByte k ch')
    (d1 d2 : Option Byte) : encodeFrame k ch d1 d2 = encodeFrame k ch' d1 d2 := by
  cases d1 <;> cases d2 <;> simp [encodeFrame, h]

/-- DECODE of a built frame whose data is in contract. -/
theorem decodeFrame_built (k : StatusKind) (ch : Channel) (h1 : 1 ≤ ch.toNat) (h16 : ch.toNat ≤ 16)
    (d : DataBytes) (hd : breaksContract d = false) :
    decodeFrame (builtFrame (statusByte k ch) d) = .ok (.ok ⟨ch, k, data1Of d, data2Of d, 0⟩) := by
  refine decodeFrame_eq_message_iff.2 ⟨_, d, k, rfl, by simp, hd, ?_⟩
  simp [messageOf, channelOf_lowNibble_statusByte k ch h1 h16, builtFrame]

/-! ### MATCH -/

theorem leadingBytesEqual_iff (p c : List Byte) : leadingBytesEqual p c = true ↔ p <+: c := by
  induction p generalizing c with
  | nil => simp [leadingBytesEqual]
  | cons x xs ih =>
    cases c with
    | nil => simp [leadingBytesEqual]
    | cons y ys => simp [leadingBytesEqual, ih, List.cons_prefix_cons]

/-- MATCH is the prefix test on non-empty frames (R112, R113, R114). -/
theorem matchBytes_iff (p c : Frame) :
    matchBytes p c = true ↔ frameList p ≠ [] ∧ frameList c ≠ [] ∧ frameList p <+: frameList c := by
  unfold matchBytes
  split
  · rename_i h
    simp only [List.length_eq_zero_iff] at h
    rcases h with h | h <;> simp [h]
  · rename_i h
    simp only [List.length_eq_zero_iff, not_or] at h
    split
    · rename_i hlt
      simp only [Bool.false_eq_true, false_iff, not_and]
      intro _ _ hp
      exact absurd hp.length_le (Nat.not_le.2 hlt)
    · rw [leadingBytesEqual_iff]; simp [h]

end Sys2Proof.Machine
end

