-- ==== Sys2Proof/Laws/Controller.lean ====
section
/-! SUPPORT. The spec lemmas of the controller: when CONFIGURE answers what, the conditions of TICK as
propositions, and the three things an allowed TICK can do. -/

namespace Sys2Proof.Machine

/-! ### CONFIGURE -/

theorem channelLegal_iff (ch : Channel) : channelLegal ch = true ↔ 1 ≤ ch.toNat ∧ ch.toNat ≤ 16 := by
  rw [channelLegal, Bool.and_eq_true, decide_eq_true_iff, decide_eq_true_iff]; exact Iff.rfl

theorem valueLegal_iff (v : Byte) : valueLegal v = true ↔ v.toNat ≤ 127 := by
  rw [valueLegal, decide_eq_true_iff]; exact Iff.rfl

theorem valuesLegal_iff (a : ConfigArgs) :
    valuesLegal a = true ↔ a.trigVal.toNat ≤ 127 ∧ a.actVal.toNat ≤ 127 ∧ a.enVal.toNat ≤ 127 ∧
      a.disVal.toNat ≤ 127 ∧ 0 < a.timeout ∧ a.low.toNat ≤ 127 ∧ a.high.toNat ≤ 127 ∧
      a.low.toNat ≤ a.high.toNat := by
  simp only [valuesLegal, Bool.and_eq_true, valueLegal_iff, decide_eq_true_eq]; tauto

theorem ambiguous_iff (a : ConfigArgs) : ambiguous a = true ↔ SharesTriple a := by
  simp [ambiguous, SharesTriple, and_assoc]

theorem kind_mem_iff (n : Nibble) : n ∈ [0x8#4, 0x9#4, 0xB#4, 0xC#4] ↔ ∃ k, kindOf n = some k := by
  rw [← Option.ne_none_iff_exists', ne_eq, kindOf_eq_none_iff, not_not]

theorem argsInRange_iff (a : ConfigArgs) :
    ArgsInRange a ↔ channelLegal a.trigCh = true ∧ channelLegal a.actCh = true ∧
      (∃ k, kindOf a.trigSt = some k) ∧ (∃ k, kindOf a.actSt = some k) ∧ valuesLegal a = true := by
  simp only [channelLegal_iff, valuesLegal_iff, ← kind_mem_iff]
  constructor
  · rintro ⟨h1, h2, h3, h4, h5, h6, h7, h8, h9, h10, h11, h12⟩
    exact ⟨h1, h2, h3, h4, h5, h6, h7, h8, h9, h10, h11, h12⟩
  · rintro ⟨h1, h2, h3, h4, h5, h6, h7, h8, h9, h10, h11, h12⟩
    exact ⟨h1, h2, h3, h4, h5, h6, h7, h8, h9, h10, h11, h12⟩

/-- In range: the ambiguity check decides (R143). -/
theorem checkConfig_in_range {a : ConfigArgs} (h : ArgsInRange a) :
    ∃ kt ka, nibOf kt = a.trigSt ∧ nibOf ka = a.actSt ∧
      checkConfig a = if ambiguous a then .error .ambiguousSpec else .ok (registersOf a kt ka) := by
  obtain ⟨h1, h2, ⟨kt, h3⟩, ⟨ka, h4⟩, h5⟩ := (argsInRange_iff a).1 h
  exact ⟨kt, ka, (kindOf_eq_some_iff _ _).1 h3, (kindOf_eq_some_iff _ _).1 h4, by
    simp [checkConfig, h1, h2, h3, h4, h5]⟩

/-- Out of range: InvalidConfig, whatever else holds (R142, R210). -/
theorem checkConfig_out_of_range {a : ConfigArgs} (h : ¬ArgsInRange a) :
    checkConfig a = .error .invalidConfig := by
  rw [argsInRange_iff] at h
  unfold checkConfig
  split
  · rfl
  · split
    · rfl
    · split
      · split
        · rfl
        · simp_all
      · rfl

/-- What a successful check says, and what it writes (R140). -/
theorem checkConfig_eq_ok {a : ConfigArgs} {c : CfgRegs} (h : checkConfig a = .ok c) :
    ArgsInRange a ∧ ¬SharesTriple a ∧
      ∃ kt ka, nibOf kt = a.trigSt ∧ nibOf ka = a.actSt ∧ c = registersOf a kt ka := by
  have hr : ArgsInRange a := by
    by_contra hn
    rw [checkConfig_out_of_range hn] at h
    cases h
  obtain ⟨kt, ka, ht, ha, hc⟩ := checkConfig_in_range hr
  rw [hc] at h
  split at h
  · cases h
  · rename_i hamb
    refine ⟨hr, fun hs => hamb ((ambiguous_iff a).2 hs), kt, ka, ht, ha, ?_⟩
    cases h; rfl

/-- A failed check is one of the two configuration verdicts. -/
theorem checkConfig_eq_error {a : ConfigArgs} {v : ConfigOut} (h : checkConfig a = .error v) :
    v = .invalidConfig ∨ v = .ambiguousSpec := by
  by_cases hr : ArgsInRange a
  · obtain ⟨kt, ka, -, -, hc⟩ := checkConfig_in_range hr
    rw [hc] at h
    split at h <;> cases h
    exact .inr rfl
  · rw [checkConfig_out_of_range hr] at h
    cases h
    exact .inl rfl

/-- The registers a successful CONFIGURE writes are legal (R45(e)). -/
theorem checkConfig_legal {a : ConfigArgs} {c : CfgRegs} (h : checkConfig a = .ok c) :
    c.valid = true ∧ LegalCfg c := by
  obtain ⟨hr, hs, kt, ka, ht, ha, rfl⟩ := checkConfig_eq_ok h
  refine ⟨rfl, ⟨hr.trigCh_range, hr.actCh_range, hr.trigVal_le, hr.actVal_le, hr.enVal_le, hr.disVal_le,
    hr.timeout_pos, ⟨hr.band, hr.high_le⟩, ?_⟩⟩
  rintro ⟨h1, h2, h3⟩
  exact hs ⟨h1, by rw [← ht, ← ha]; exact congrArg nibOf h2, h3⟩

/-! ### The conditions of TICK -/

theorem inBand_iff (c : CfgRegs) (v : Byte) : inBand c v = true ↔ InBand c v := by
  cases h : c.bounds <;> simp [inBand, InBand, h]

theorem timeoutFires_iff (s : State) (now : Nat) :
    timeoutFires s.cfg s.ctl now = true ↔ s.ctl.engaged = true ∧ TimedOut s now := by
  rw [timeoutFires, Bool.and_eq_true, Bool.and_eq_true, decide_eq_true_iff, inBand_iff, and_assoc,
    elapsed, Nat.lt_sub_iff_add_lt', TimedOut]

theorem trigMatch_iff (c : CfgRegs) (m : Msg) :
    trigMatch (triggerSpec c) m = true ↔
      m.channel = c.trigCh ∧ m.status = c.trigSt ∧ m.data1 = some c.trigVal := by
  rw [trigMatch, Bool.and_eq_true, Bool.and_eq_true, decide_eq_true_iff, decide_eq_true_iff,
    decide_eq_true_iff, and_assoc]
  exact Iff.rfl

theorem triggerOf_eq_some_iff (c : CfgRegs) (fin : Option Frame) (m : Msg) :
    triggerOf c fin = some m ↔ IsTrigger c fin m := by
  unfold triggerOf IsTrigger
  split
  · simp
  · rename_i f
    simp only [Option.some.injEq, exists_eq_left', ← trigMatch_iff]
    split
    · rename_i m' hm'
      rw [hm']
      simp only [Except.ok.injEq, DecodeOut.ok.injEq]
      split
      · rename_i ht
        simp only [Option.some.injEq]
        exact ⟨fun h => h ▸ ⟨rfl, ht⟩, fun h => h.1⟩
      · rename_i ht
        constructor
        · intro h; cases h
        · rintro ⟨rfl, h⟩; exact absurd h ht
    · rename_i hno
      simp only [reduceCtorEq, false_iff, not_and]
      intro h
      exact absurd h (hno m)

theorem triggerOf_eq_none_iff (c : CfgRegs) (fin : Option Frame) :
    triggerOf c fin = none ↔ ∀ m, ¬IsTrigger c fin m := by
  simp [Option.eq_none_iff_forall_ne_some, triggerOf_eq_some_iff]

/-- What a match records, with the data1 every match has (R157). -/
theorem selectValue_of_trigger {c : CfgRegs} {fin : Option Frame} {m : Msg} (h : IsTrigger c fin m) :
    selectValue c m =
      if c.vsrc = .data2ElseData1 then m.data2.getD c.trigVal else c.trigVal := by
  obtain ⟨f, -, -, -, -, h1⟩ := h
  cases hv : c.vsrc <;> simp [selectValue, hv, h1]

/-- What a match records is a data value (R40, R45(d)). -/
theorem selectValue_le {c : CfgRegs} {fin : Option Frame} {m : Msg} (h : IsTrigger c fin m) :
    (selectValue c m).toNat ≤ 127 := by
  obtain ⟨f, -, hd, -, -, h1⟩ := h
  have hl := decodeFrame_legal hd
  cases hv : c.vsrc
  · cases h2 : m.data2
    · simpa [selectValue, hv, h2, h1] using hl.data1_le _ h1
    · simpa [selectValue, hv, h2] using hl.data2_le _ h2
  · simpa [selectValue, hv, h1] using hl.data1_le _ h1

theorem frameRefused_eq_false_iff (fin : Option Frame) :
    frameRefused fin = false ↔ ∀ f, fin = some f → ∃ out, decodeFrame f = .ok out := by
  cases fin with
  | none => simp [frameRefused]
  | some f => cases h : decodeFrame f <;> simp [frameRefused, h]

theorem tickRefusal_eq_none_iff (now : Nat) (fin : Option Frame) (s : State) :
    tickRefusal now fin s = none ↔ TickAllowed s now fin := by
  unfold tickRefusal TickAllowed
  rw [← frameRefused_eq_false_iff]
  cases s.cfg.valid <;> cases s.ctl.engaged <;> cases frameRefused fin <;> simp
  split <;> simp

/-! ### What an allowed TICK does -/

/-- Step 1 fires (R152, R160). -/
theorem exec_tick_timeout {now : Nat} {fin : Option Frame} {s : State} (ha : TickAllowed s now fin)
    (he : s.ctl.engaged = true) (ht : TimedOut s now) :
    execTick now fin s = .next
      (({ s with ctl := { s.ctl with engaged := false } } : State).respond
        (.ticked (some (disableFrame s.cfg)))) := by
  simp [execTick, (tickRefusal_eq_none_iff now fin s).2 ha, tickEffect,
    (timeoutFires_iff s now).2 ⟨he, ht⟩]

/-- Neither step does anything (R155, R159). -/
theorem exec_tick_quiet {now : Nat} {fin : Option Frame} {s : State} (ha : TickAllowed s now fin)
    (ht : ¬(s.ctl.engaged = true ∧ TimedOut s now)) (hm : ∀ m, ¬IsTrigger s.cfg fin m) :
    execTick now fin s = .next (s.respond (.ticked none)) := by
  rw [← timeoutFires_iff] at ht
  simp [execTick, (tickRefusal_eq_none_iff now fin s).2 ha, tickEffect, ht,
    (triggerOf_eq_none_iff s.cfg fin).2 hm]

/-- Step 2 engages or refreshes (R157, R158). -/
theorem exec_tick_trigger {now : Nat} {fin : Option Frame} {s : State} {m : Msg}
    (ha : TickAllowed s now fin) (ht : ¬(s.ctl.engaged = true ∧ TimedOut s now))
    (hm : IsTrigger s.cfg fin m) :
    execTick now fin s = .next
      (({ s with ctl := recordTrigger s.cfg now m } : State).respond
        (.ticked (if s.ctl.engaged then none else some (enableFrame s.cfg)))) := by
  rw [← timeoutFires_iff] at ht
  simp [execTick, (tickRefusal_eq_none_iff now fin s).2 ha, tickEffect, ht,
    (triggerOf_eq_some_iff s.cfg fin m).2 hm]

/-- The one inversion of TICK: if it completes it was allowed and did one of these three things (R162). -/
theorem execTick_next_cases {now : Nat} {fin : Option Frame} {s t : State}
    (h : execTick now fin s = .next t) :
    TickAllowed s now fin ∧
    ((s.ctl.engaged = true ∧ TimedOut s now ∧
        t = ({ s with ctl := { s.ctl with engaged := false } } : State).respond
          (.ticked (some (disableFrame s.cfg)))) ∨
      (¬(s.ctl.engaged = true ∧ TimedOut s now) ∧ (∀ m, ¬IsTrigger s.cfg fin m) ∧
        t = s.respond (.ticked none)) ∨
      (¬(s.ctl.engaged = true ∧ TimedOut s now) ∧ ∃ m, IsTrigger s.cfg fin m ∧
        t = ({ s with ctl := recordTrigger s.cfg now m } : State).respond
          (.ticked (if s.ctl.engaged then none else some (enableFrame s.cfg))))) := by
  have ha : TickAllowed s now fin := by
    rw [← tickRefusal_eq_none_iff]
    unfold execTick at h
    split at h
    · cases h
    · assumption
  refine ⟨ha, ?_⟩
  by_cases ht : s.ctl.engaged = true ∧ TimedOut s now
  · rw [exec_tick_timeout ha ht.1 ht.2] at h
    cases h
    exact .inl ⟨ht.1, ht.2, rfl⟩
  · by_cases hm : ∀ m, ¬IsTrigger s.cfg fin m
    · rw [exec_tick_quiet ha ht hm] at h
      cases h
      exact .inr (.inl ⟨ht, hm, rfl⟩)
    · obtain ⟨m, hm⟩ := not_forall_not.1 hm
      rw [exec_tick_trigger ha ht hm] at h
      cases h
      exact .inr (.inr ⟨ht, m, hm, rfl⟩)

/-- A TICK that is not allowed has no step (R151). -/
theorem execTick_refused {now : Nat} {fin : Option Frame} {s : State} (h : ¬TickAllowed s now fin) :
    ∃ r, execTick now fin s = .refused r := by
  rw [← tickRefusal_eq_none_iff] at h
  obtain ⟨r, hr⟩ := Option.ne_none_iff_exists'.1 h
  exact ⟨r, by simp [execTick, hr]⟩

/-! ### The trigger test on bytes -/

/-- On a decodable frame the trigger test says what the first two bytes are (R156). -/
theorem triggerTest_iff_bytes {c : CfgRegs} (hr : 1 ≤ c.trigCh.toNat ∧ c.trigCh.toNat ≤ 16) {f : Frame}
    {m : Msg} (hd : decodeFrame f = .ok (.ok m)) :
    (m.channel = c.trigCh ∧ m.status = c.trigSt ∧ m.data1 = some c.trigVal) ↔
      ∃ rest, frameList f = statusByte c.trigSt c.trigCh :: c.trigVal :: rest := by
  obtain ⟨b0, d, k, hb, hk, -, rfl⟩ := decodeFrame_eq_message_iff.1 hd
  have hs := statusByte_of_fields hk
  have hcr := channelOf_range (lowNibble b0)
  have hfl : frameList f = b0 :: dataList d := by simp [frameList, hb]
  rw [hfl]
  constructor
  · rintro ⟨h1, h2, h3⟩
    simp only [messageOf] at h1 h2 h3
    subst h2
    rw [← h1, hs]
    cases d <;> simp [data1Of] at h3 <;> subst h3 <;> simp [dataList]
  · rintro ⟨rest, h⟩
    simp only [List.cons.injEq] at h
    obtain ⟨h1, h2⟩ := h
    obtain ⟨hch, hst⟩ := (statusByte_inj hcr.1 hcr.2 hr.1 hr.2).1 (hs.trans h1)
    refine ⟨hch, hst, ?_⟩
    cases d <;> simp [dataList] at h2 <;> simp [messageOf, data1Of, h2]

/-! ### Runs of TICKs -/

theorem runTicks_append {l : List (Nat × Option Frame)} {s t : State} (h : runTicks l s = .next t)
    (l' : List (Nat × Option Frame)) : runTicks (l ++ l') s = runTicks l' t := by
  induction l generalizing s with
  | nil => simp only [runTicks, Host.Outcome.next.injEq] at h; simp [h]
  | cons p rest ih =>
    simp only [runTicks, List.cons_append] at h ⊢
    cases hd : deliver (exec (.tick p.1 p.2) s) <;> rw [hd] at h <;> simp at h ⊢
    exact ih h

end Sys2Proof.Machine
end

