-- ==== Sys2Proof/Laws/Encoding.lean ====
section
/-! SUPPORT. The encoder's small lemmas: what the decoder reads from each form the encoder writes. -/

namespace Sys2Proof.Machine

theorem frameOfBytes_cons_dataList (b0 : Byte) (d : DataBytes) (tsl : Nat) :
    frameOfBytes (b0 :: dataList d) tsl = some ⟨.bytes b0 d, tsl⟩ := by cases d <;> rfl

/-- A list of bytes is a frame's bytes exactly when there are at most three. -/
theorem frameOfBytes_eq_some_iff {bytes : List Byte} {tsl : Nat} {f : Frame} :
    frameOfBytes bytes tsl = some f ↔ frameList f = bytes ∧ f.tsl = tsl := by
  obtain ⟨b, t⟩ := f
  constructor
  · unfold frameOfBytes
    split <;> intro h <;> cases h <;> exact ⟨rfl, rfl⟩
  · rintro ⟨rfl, rfl⟩
    cases b with
    | empty => rfl
    | bytes b0 d => exact frameOfBytes_cons_dataList b0 d t

theorem frameList_length_le (f : Frame) : (frameList f).length ≤ 3 := by
  obtain ⟨b, t⟩ := f
  cases b with
  | empty => simp [frameList]
  | bytes b0 d => cases d <;> simp [frameList, dataList]

theorem frameOfBytes_eq_none_iff {bytes : List Byte} {tsl : Nat} :
    frameOfBytes bytes tsl = none ↔ 3 < bytes.length := by
  match bytes with
  | [] | [_] | [_, _] | [_, _, _] => simp [frameOfBytes]
  | _ :: _ :: _ :: _ :: _ => simp [frameOfBytes]

theorem decodeRequest_wire_cons (b0 : Byte) (d : DataBytes) (tsl : Nat) :
    decodeRequest (.wire (b0 :: dataList d) tsl) = .ok (classify b0 d tsl) := by
  simp [decodeRequest, decodeWire, frameOfBytes_cons_dataList, instrOfFrame]

theorem decodeRequest_wireOf (top low : Nibble) (d : DataBytes) (tsl : Nat) :
    decodeRequest (wireOf top low d tsl) = .ok (classify (top ++ low) d tsl) :=
  decodeRequest_wire_cons _ d tsl

@[simp] theorem frameOfPort_portOfFrame (f : Frame) : frameOfPort (portOfFrame f) = f := by
  obtain ⟨b, t⟩ := f
  cases b with
  | empty => rfl
  | bytes b0 d => cases d <;> rfl

@[simp] theorem optByteOfPort_portOfOptByte (v : Option Byte) : optByteOfPort (portOfOptByte v) = v := by
  cases v <;> rfl

@[simp] theorem configOfPort_portOfConfig (a : ConfigArgs) : configOfPort (portOfConfig a) = a := by
  obtain ⟨_, _, _, _, _, _, _, _, _, _, _, b, v⟩ := a
  cases b <;> cases v <;> rfl

/-- Two frames with the same bytes in wire order have the same bytes. -/
theorem frameBytes_of_frameList {f g : Frame} (h : frameList f = frameList g) : f.bytes = g.bytes := by
  obtain ⟨b, t⟩ := f
  obtain ⟨b', t'⟩ := g
  cases b <;> cases b' <;> simp_all [frameList]
  exact dataList_injective h.2

end Sys2Proof.Machine
end

