-- ==== Sys2Proof/Laws/PerInstr.lean ====
section
/-! SUPPORT. Per instruction: its encoded request shows the pattern of its row of opcode_table.json. -/

namespace Sys2Proof.Laws.TablePattern

/-- The request is a wire frame whose byte 0 has the row's `match` under the row's `mask` (R78). -/
def FirstByte (mask pattern : Byte) (r : Request) : Prop :=
  ∃ b0 rest tsl, r = .wire (b0 :: rest) tsl ∧ b0 &&& mask = pattern

/-- The request is an operation with the row's select code (R90). -/
def Select (code : BitVec 3) (r : Request) : Prop := ∃ ports, r = .op code ports

/-- The row's pattern, from opcode_table.json. -/
def Statement (i : Instr) : Prop :=
  match i with
  | .noteOff _ _ _ => FirstByte 0xF0#8 0x80#8 (encodeRequest i)
  | .noteOn _ _ _ => FirstByte 0xF0#8 0x90#8 (encodeRequest i)
  | .controlChange _ _ _ => FirstByte 0xF0#8 0xB0#8 (encodeRequest i)
  | .programChange _ _ _ => FirstByte 0xF0#8 0xC0#8 (encodeRequest i)
  | .unrecData _ _ _ => FirstByte 0x80#8 0x00#8 (encodeRequest i)
  | .unrecA _ _ _ => FirstByte 0xF0#8 0xA0#8 (encodeRequest i)
  | .unrecD _ _ _ => FirstByte 0xF0#8 0xD0#8 (encodeRequest i)
  | .unrecE _ _ _ => FirstByte 0xF0#8 0xE0#8 (encodeRequest i)
  | .extended _ _ _ => FirstByte 0xF0#8 0xF0#8 (encodeRequest i)
  | .empty tsl => encodeRequest i = .wire [] tsl
  | .decode _ => Select 0b000#3 (encodeRequest i)
  | .encode _ _ _ _ => Select 0b001#3 (encodeRequest i)
  | .matchFrames _ _ => Select 0b010#3 (encodeRequest i)
  | .configure _ => Select 0b011#3 (encodeRequest i)
  | .tick _ _ => Select 0b100#3 (encodeRequest i)

/-- Masking a byte with 0xF0 keeps its top nibble. -/
theorem firstByte_wireOf (top low : Nibble) (d : DataBytes) (tsl : Nat) :
    FirstByte 0xF0#8 (top ++ 0#4) (wireOf top low d tsl) :=
  ⟨_, _, _, rfl, by revert top low; decide⟩

theorem noteOff (ch : Nibble) (d : DataBytes) (tsl : Nat) : Statement (.noteOff ch d tsl) :=
  firstByte_wireOf 0x8#4 ch d tsl

theorem noteOn (ch : Nibble) (d : DataBytes) (tsl : Nat) : Statement (.noteOn ch d tsl) :=
  firstByte_wireOf 0x9#4 ch d tsl

theorem controlChange (ch : Nibble) (d : DataBytes) (tsl : Nat) : Statement (.controlChange ch d tsl) :=
  firstByte_wireOf 0xB#4 ch d tsl

theorem programChange (ch : Nibble) (d : DataBytes) (tsl : Nat) : Statement (.programChange ch d tsl) :=
  firstByte_wireOf 0xC#4 ch d tsl

theorem unrecData (low : BitVec 7) (d : DataBytes) (tsl : Nat) : Statement (.unrecData low d tsl) :=
  ⟨_, _, _, rfl, by revert low; decide⟩

theorem unrecA (low : Nibble) (d : DataBytes) (tsl : Nat) : Statement (.unrecA low d tsl) :=
  firstByte_wireOf 0xA#4 low d tsl

theorem unrecD (low : Nibble) (d : DataBytes) (tsl : Nat) : Statement (.unrecD low d tsl) :=
  firstByte_wireOf 0xD#4 low d tsl

theorem unrecE (low : Nibble) (d : DataBytes) (tsl : Nat) : Statement (.unrecE low d tsl) :=
  firstByte_wireOf 0xE#4 low d tsl

theorem extended (low : Nibble) (d : DataBytes) (tsl : Nat) : Statement (.extended low d tsl) :=
  firstByte_wireOf 0xF#4 low d tsl

theorem empty (tsl : Nat) : Statement (.empty tsl) := rfl

theorem decode (f : Frame) : Statement (.decode f) := ⟨_, rfl⟩

theorem encode (k : StatusKind) (ch : Channel) (d1 d2 : Option Byte) : Statement (.encode k ch d1 d2) :=
  ⟨_, rfl⟩

theorem matchFrames (p c : Frame) : Statement (.matchFrames p c) := ⟨_, rfl⟩

theorem configure (a : ConfigArgs) : Statement (.configure a) := ⟨_, rfl⟩

theorem tick (now : Nat) (fin : Option Frame) : Statement (.tick now fin) := by
  cases fin <;> exact ⟨_, rfl⟩

end Sys2Proof.Laws.TablePattern
end

