-- ==== Sys2Proof/Laws/Step.lean ====
section
/-! SUPPORT. What exec and step can do, once: the inversions every invariant's proof starts from. -/

namespace Sys2Proof.Machine

/-- If exec answers a next state, it returned a codec result and changed nothing else, or it was a successful or
failed CONFIGURE, or it was a TICK. -/
theorem exec_next_cases {i : Instr} {s t : State} (h : exec i s = .next t) :
    ((∀ now fin, i ≠ .tick now fin) ∧
      ∃ r, t = s.respond r ∧ (∀ out, r ≠ .ticked out) ∧ ∀ m, r = .decoded (.ok m) → LegalMsg m) ∨
    (∃ a c, i = .configure a ∧ s.cfg.valid = false ∧ checkConfig a = .ok c ∧
      t = ({ s with cfg := c, ctl := CtlRegs.reset } : State).respond (.configured .ok)) ∨
    (∃ now fin, i = .tick now fin ∧ execTick now fin s = .next t) := by
  have recognised : ∀ {k ch d tsl}, recognisedFrame k ch d tsl s = .next t →
      ∃ r, t = s.respond r ∧ (∀ out, r ≠ .ticked out) ∧ ∀ m, r = .decoded (.ok m) → LegalMsg m := by
    intro k ch d tsl h
    unfold recognisedFrame at h
    split at h
    · cases h
    · rename_i hc
      cases h
      refine ⟨_, rfl, by simp, fun m hm => ?_⟩
      cases hm
      exact messageOf_legal (by simpa using hc)
  have dropped : ∀ {v : DecodeOut}, (∀ m, v ≠ .ok m) → droppedFrame v s = .next t →
      ∃ r, t = s.respond r ∧ (∀ out, r ≠ .ticked out) ∧ ∀ m, r = .decoded (.ok m) → LegalMsg m := by
    intro v hv h
    cases h
    exact ⟨_, rfl, by simp, fun m hm => absurd (by simpa using hm) (hv m)⟩
  cases i with
  | noteOff => exact .inl ⟨by simp, recognised h⟩
  | noteOn => exact .inl ⟨by simp, recognised h⟩
  | controlChange => exact .inl ⟨by simp, recognised h⟩
  | programChange => exact .inl ⟨by simp, recognised h⟩
  | unrecData => exact .inl ⟨by simp, dropped (by simp) h⟩
  | unrecA => exact .inl ⟨by simp, dropped (by simp) h⟩
  | unrecD => exact .inl ⟨by simp, dropped (by simp) h⟩
  | unrecE => exact .inl ⟨by simp, dropped (by simp) h⟩
  | extended => exact .inl ⟨by simp, dropped (by simp) h⟩
  | empty => exact .inl ⟨by simp, dropped (by simp) h⟩
  | decode f =>
    simp only [exec, execDecode] at h
    split at h
    · rename_i out hd
      cases h
      refine .inl ⟨by simp, _, rfl, by simp, fun m hm => ?_⟩
      cases hm
      exact decodeFrame_legal hd
    · cases h
  | encode k ch d1 d2 => cases h; exact .inl ⟨by simp, _, rfl, by simp, by simp⟩
  | matchFrames p c => cases h; exact .inl ⟨by simp, _, rfl, by simp, by simp⟩
  | configure a =>
    simp only [exec, execConfigure] at h
    split at h
    · cases h
    · rename_i hv
      split at h
      · cases h; exact .inl ⟨by simp, _, rfl, by simp, by simp⟩
      · cases h; exact .inr (.inl ⟨a, _, rfl, by simpa using hv, ‹_›, rfl⟩)
  | tick now fin => exact .inr (.inr ⟨now, fin, rfl, h⟩)

/-- Every instruction but TICK and CONFIGURE is pure: one result, or one refusal, in every state (R105, R111, R115). -/
theorem exec_codec_pure {i : Instr} (ht : ∀ now fin, i ≠ .tick now fin) (hc : ∀ a, i ≠ .configure a) :
    (∃ r, ∀ s, exec i s = .next (s.respond r)) ∨ ∃ e, ∀ s, exec i s = .refused e := by
  have recognised : ∀ k ch d tsl, (∃ r, ∀ s, recognisedFrame k ch d tsl s = .next (s.respond r)) ∨
      ∃ e, ∀ s, recognisedFrame k ch d tsl s = .refused e := by
    intro k ch d tsl
    cases h : breaksContract d
    · exact .inl ⟨_, fun s => by simp only [recognisedFrame, h]; rfl⟩
    · exact .inr ⟨_, fun s => by simp only [recognisedFrame, h]; rfl⟩
  cases i with
  | noteOff ch d tsl => exact recognised _ ch d tsl
  | noteOn ch d tsl => exact recognised _ ch d tsl
  | controlChange ch d tsl => exact recognised _ ch d tsl
  | programChange ch d tsl => exact recognised _ ch d tsl
  | unrecData => exact .inl ⟨_, fun _ => rfl⟩
  | unrecA => exact .inl ⟨_, fun _ => rfl⟩
  | unrecD => exact .inl ⟨_, fun _ => rfl⟩
  | unrecE => exact .inl ⟨_, fun _ => rfl⟩
  | extended => exact .inl ⟨_, fun _ => rfl⟩
  | empty => exact .inl ⟨_, fun _ => rfl⟩
  | decode f =>
    cases h : decodeFrame f with
    | ok out => exact .inl ⟨_, fun s => by simp only [exec, execDecode, h]; rfl⟩
    | error e => exact .inr ⟨_, fun s => by simp only [exec, execDecode, h]; rfl⟩
  | encode => exact .inl ⟨_, fun _ => rfl⟩
  | matchFrames => exact .inl ⟨_, fun _ => rfl⟩
  | configure a => exact absurd rfl (hc a)
  | tick now fin => exact absurd rfl (ht now fin)

/-- If step answers a next state, nothing was asked, or the request taken was decoded, executed, and its result
sent on. -/
theorem step_next_cases {s t : State} (h : step s = .next t) :
    (takeAction s = none ∧ t = s) ∨
    ∃ r u i v, takeAction s = some (r, u) ∧ decodeRequest r = .ok i ∧ exec i u = .next v ∧
      t = sendReturned v := by
  unfold step at h
  split at h
  · cases h; exact .inl ⟨‹_›, rfl⟩
  · split at h
    · cases h
    · obtain ⟨v, hv, rfl⟩ := deliver_eq_next_iff.1 h
      exact .inr ⟨_, _, _, v, ‹_›, ‹_›, hv, rfl⟩

/-- A TICK that a step runs was given the clock's value (R151, R218). -/
theorem clock_of_decoded_tick {s u : State} {r : Request} {now : Nat} {fin : Option Frame}
    (hu : takeAction s = some (r, u)) (hr : decodeRequest r = .ok (.tick now fin)) :
    u.host.clock = now := by
  have key : ∀ c, clockAfter c r = now := by
    intro c
    cases r with
    | wire bytes tsl =>
      simp only [decodeRequest, decodeWire] at hr
      split at hr
      · rename_i f _
        obtain ⟨b, tsl'⟩ := f
        cases b with
        | empty => cases hr
        | bytes b0 d =>
          simp only [instrOfFrame, classify, Except.ok.injEq] at hr
          split at hr <;> cases hr
      · cases hr
    | op sel p =>
      simp only [decodeRequest, decodeOp] at hr
      repeat' split at hr
      all_goals first
        | (cases hr; done)
        | (simp only [Except.ok.injEq, Instr.tick.injEq] at hr; simp [clockAfter, *])
  unfold takeAction at hu
  split at hu
  · cases hu
  · cases hu; exact key _
  · cases hu
    have := key 0
    revert this
    generalize s.host.input.headD none = fin'
    cases fin' <;> simp [pollRequest, encodeRequest, clockAfter, zeroPorts]

/-- Nothing but a TICK moves the clock. -/
theorem clock_of_decoded_other {s u : State} {r : Request} {i : Instr} (hu : takeAction s = some (r, u))
    (hr : decodeRequest r = .ok i) (hi : ∀ now fin, i ≠ .tick now fin) : u.host.clock = s.host.clock := by
  unfold takeAction at hu
  split at hu
  · cases hu
  · cases hu
    cases r with
    | wire bytes tsl => rfl
    | op sel p =>
      by_cases h : sel = 0b100#3
      · subst h
        exact absurd (by simpa [decodeRequest, decodeOp] using hr.symm) (hi _ _)
      · simp [clockAfter, h]
  · cases hu
    generalize s.host.input.headD none = fin' at hr
    cases fin' with
    | none => exact absurd (by simpa [pollRequest, encodeRequest, decodeRequest, decodeOp] using hr.symm) (hi _ _)
    | some f => exact absurd (by simpa [pollRequest, encodeRequest, decodeRequest, decodeOp] using hr.symm) (hi _ _)

end Sys2Proof.Machine
end

