-- ==== Sys2Proof/Tests/Slice0.lean ====
section
/-! SUPPORT. Tests with expected values taken from spec/ (95_test_vectors.md, 30_encoding.md, 40_codec.md,
41_controller.md), and for each statement with hypotheses a state and operands that meet them together. -/

open Sys2Proof Sys2Proof.Machine

namespace Sys2Proof.Tests

/-! ### Helpers -/

/-- The registers of the end-to-end configuration E2E (95_test_vectors.md). -/
def cfgE2E : CfgRegs :=
  ⟨true, 1#5, .controlChange, 90#8, 1#5, .controlChange, 94#8, 127#8, 0#8, 500, 0#8, 20#8, .inclusive,
    .data2ElseData1⟩

/-- The CONFIGURE arguments of E2E. -/
def argsE2E : ConfigArgs :=
  ⟨1#5, 0xB#4, 90#8, 1#5, 0xB#4, 94#8, 127#8, 0#8, 500, 0#8, 20#8, .inclusive, .data2ElseData1⟩

/-- E2E with ST.* as the vectors write it: ENGAGED, LTV_VALID, LTV, TLT. -/
def stateE2E (engaged ltvValid : Bool) (ltv : Byte) (tlt : Nat) : State :=
  ⟨cfgE2E, ⟨engaged, ltv, ltvValid, tlt⟩, HostSide.reset⟩

/-- The same with the host about to take these actions, its clock at ST.TLT. -/
def stateAsked (engaged ltvValid : Bool) (ltv : Byte) (tlt : Nat) (script : List HostAction) : State :=
  ⟨cfgE2E, ⟨engaged, ltv, ltvValid, tlt⟩, { HostSide.reset with script := script, clock := tlt }⟩

def f1 (a : Byte) : Frame := ⟨.bytes a .none, 0⟩
def f2 (a b : Byte) : Frame := ⟨.bytes a (.one b), 0⟩
def f3 (a b c : Byte) : Frame := ⟨.bytes a (.two b c), 0⟩

/-- The output record and ST.* after a completed operation. -/
def result (o : Host.Outcome State Fault Refusal) : Option (Option Response × CtlRegs) :=
  match o with
  | .next s => some (s.host.response, s.ctl)
  | .fault _ => none
  | .refused _ => none

def refusal (o : Host.Outcome State Fault Refusal) : Option Refusal :=
  match o with
  | .next _ => none
  | .fault _ => none
  | .refused r => some r

/-- The output record of an operation on the reset state. -/
def answer (i : Instr) : Option Response :=
  match exec i State.reset with
  | .next s => s.host.response
  | .fault _ => none
  | .refused _ => none

/-! ### Well-formedness: an ill-formed term for each check -/

theorem test_wellFormed_refuses :
    Instr.wellFormed (.noteOn 0#4 (.one 128#8) 0) = false ∧
    Instr.wellFormed (.noteOff 0#4 (.two 0#8 200#8) 0) = false ∧
    Instr.wellFormed (.controlChange 0#4 (.two 128#8 0#8) 0) = false ∧
    Instr.wellFormed (.programChange 0#4 (.one 255#8) 0) = false ∧
    Instr.wellFormed (.decode (f2 0xB0#8 128#8)) = false ∧
    Instr.wellFormed (.tick 0 (some (f3 0x90#8 1#8 128#8))) = false ∧
    Instr.wellFormed (.encode .noteOn 0#5 none none) = false ∧
    Instr.wellFormed (.encode .noteOn 17#5 none none) = false ∧
    Instr.wellFormed (.encode .noteOn 1#5 none (some 5#8)) = false := by decide

theorem test_wellFormed_accepts :
    Instr.wellFormed (.decode (f2 0xA0#8 255#8)) = true ∧
    Instr.wellFormed (.encode .noteOn 16#5 (some 200#8) none) = true ∧
    Instr.wellFormed (.matchFrames (f2 0xB0#8 128#8) (f1 0x00#8)) = true := by decide

/-! ### Decoding: words written out bit by bit from R71, R78, R90 -/

theorem test_decode_recognised_words :
    decodeTableWord 8 0b10000000 = some (.noteOff 0#4 .none 0) ∧
    decodeTableWord 24 0b00000000_01000000_10001010 = some (.noteOff 10#4 (.two 64#8 0#8) 0) ∧
    decodeTableWord 16 0b00111100_10010000 = some (.noteOn 0#4 (.one 60#8) 0) ∧
    decodeTableWord 24 0b00001111_01011010_10110000 = some (.controlChange 0#4 (.two 90#8 15#8) 0) ∧
    decodeTableWord 16 0b00001100_11000101 = some (.programChange 5#4 (.one 12#8) 0) := by decide

theorem test_decode_dropped_words :
    decodeTableWord 8 0b01011010 = some (.unrecData 0b1011010#7 .none 0) ∧
    decodeTableWord 8 0b10100011 = some (.unrecA 3#4 .none 0) ∧
    decodeTableWord 8 0b11010000 = some (.unrecD 0#4 .none 0) ∧
    decodeTableWord 8 0b11101111 = some (.unrecE 15#4 .none 0) ∧
    decodeTableWord 8 0b11111000 = some (.extended 8#4 .none 0) ∧
    decodeTableWord 0 0 = some (.empty 0) ∧ decodeTableWord 32 0 = none := by decide

theorem test_decode_select_codes :
    decodeTableWord 3 0b000 = some (.decode ⟨.empty, 0⟩) ∧
    decodeTableWord 3 0b001 = some (.encode .noteOff 0#5 none none) ∧
    decodeTableWord 3 0b010 = some (.matchFrames ⟨.empty, 0⟩ ⟨.empty, 0⟩) ∧
    (decodeTableWord 3 0b011).isSome = true ∧
    decodeTableWord 3 0b100 = some (.tick 0 none) ∧
    decodeTableWord 3 0b101 = none ∧ decodeTableWord 3 0b110 = none ∧ decodeTableWord 3 0b111 = none := by
  decide

/-- Each row of the first-byte map, tried on its lowest and highest byte (R78). -/
theorem test_first_byte_map :
    [0x00#8, 0x7F#8, 0x80#8, 0x8F#8, 0x90#8, 0x9F#8, 0xA0#8, 0xAF#8, 0xB0#8, 0xBF#8, 0xC0#8, 0xCF#8,
      0xD0#8, 0xDF#8, 0xE0#8, 0xEF#8, 0xF0#8, 0xFF#8].map classOf =
    [.unrecData, .unrecData, .noteOff, .noteOff, .noteOn, .noteOn, .unrecA, .unrecA, .controlChange,
      .controlChange, .programChange, .programChange, .unrecD, .unrecD, .unrecE, .unrecE, .extended,
      .extended] := by decide

/-- A fetched word runs on the next step after reset. -/
theorem test_fetched_word_runs :
    (result (step (State.reset.withFetchWord 8 0x9F))).map Prod.fst =
      some (some (.decoded (.ok ⟨16#5, .noteOn, none, none, 0⟩))) ∧
    (result (step (State.reset.withFetchWord 3 0b011))).map Prod.fst =
      some (some (.configured .invalidConfig)) := by decide

/-! ### The frame classes (opcode_table.json, V-DEC) -/

theorem test_recognised_classes :
    answer (.noteOff 10#4 (.two 64#8 0#8) 0) =
      some (.decoded (.ok ⟨11#5, .noteOff, some 64#8, some 0#8, 0⟩)) ∧
    answer (.noteOn 15#4 .none 3) = some (.decoded (.ok ⟨16#5, .noteOn, none, none, 3⟩)) ∧
    answer (.controlChange 15#4 (.two 127#8 127#8) 0) =
      some (.decoded (.ok ⟨16#5, .controlChange, some 127#8, some 127#8, 0⟩)) ∧
    answer (.programChange 0#4 (.two 5#8 7#8) 0) =
      some (.decoded (.ok ⟨1#5, .programChange, some 5#8, some 7#8, 0⟩)) := by decide

theorem test_dropped_classes :
    answer (.unrecData 0#7 (.one 255#8) 0) = some (.decoded .unrecognizedStatus) ∧
    answer (.unrecA 0#4 (.one 255#8) 0) = some (.decoded .unrecognizedStatus) ∧
    answer (.unrecD 0#4 .none 0) = some (.decoded .unrecognizedStatus) ∧
    answer (.unrecE 15#4 .none 0) = some (.decoded .unrecognizedStatus) ∧
    answer (.extended 15#4 (.two 128#8 128#8) 0) = some (.decoded .decodeSkipped) ∧
    answer (.empty 0) = some (.decoded .decodeSkipped) := by decide

/-! ### DECODE (V-DEC) -/

/-- Rows 1, 2, 3, 7, 11, 13, 17, 21. -/
theorem test_decode_vectors :
    answer (.decode ⟨.empty, 0⟩) = some (.decoded .decodeSkipped) ∧
    answer (.decode (f3 0xB0#8 90#8 15#8)) =
      some (.decoded (.ok ⟨1#5, .controlChange, some 90#8, some 15#8, 0⟩)) ∧
    answer (.decode (f1 0x9F#8)) = some (.decoded (.ok ⟨16#5, .noteOn, none, none, 0⟩)) ∧
    answer (.decode (f2 0x90#8 60#8)) = some (.decoded (.ok ⟨1#5, .noteOn, some 60#8, none, 0⟩)) ∧
    answer (.decode (f1 0xF0#8)) = some (.decoded .decodeSkipped) ∧
    answer (.decode (f3 0xFF#8 128#8 128#8)) = some (.decoded .decodeSkipped) ∧
    answer (.decode (f2 0x5A#8 90#8)) = some (.decoded .unrecognizedStatus) ∧
    answer (.decode (f2 0xA0#8 255#8)) = some (.decoded .unrecognizedStatus) := by decide

/-- Rows 22 to 25. -/
theorem test_decode_refused_vectors :
    [f2 0xB0#8 128#8, f3 0xB0#8 90#8 128#8, f3 0x90#8 200#8 1#8, f3 0xB0#8 127#8 128#8].map
      (fun f => refusal (exec (.decode f) State.reset)) =
    [some .dataBit7, some .dataBit7, some .dataBit7, some .dataBit7] := by decide

/-! ### ENCODE (V-ENC) -/

/-- Rows 1, 3, 4, 5, 8, 9. -/
theorem test_encode_vectors :
    answer (.encode .controlChange 1#5 (some 94#8) (some 127#8)) =
      some (.encoded (.ok (f3 0xB0#8 94#8 127#8))) ∧
    answer (.encode .noteOff 1#5 none none) = some (.encoded (.ok (f1 0x80#8))) ∧
    answer (.encode .programChange 16#5 none none) = some (.encoded (.ok (f1 0xCF#8))) ∧
    answer (.encode .noteOn 2#5 (some 200#8) none) = some (.encoded (.ok (f2 0x91#8 72#8))) ∧
    answer (.encode .programChange 3#5 (some 5#8) (some 7#8)) =
      some (.encoded (.ok (f3 0xC2#8 5#8 7#8))) ∧
    answer (.encode .controlChange 16#5 (some 128#8) (some 255#8)) =
      some (.encoded (.ok (f3 0xBF#8 0#8 127#8))) := by decide

/-- Rows 11, 14, 15, 16. -/
theorem test_encode_out_of_contract :
    answer (.encode .controlChange 1#5 none (some 5#8)) = some (.encoded .malformedAction) ∧
    answer (.encode .controlChange 0#5 (some 1#8) (some 2#8)) =
      some (.encoded (.ok (f3 0xBF#8 1#8 2#8))) ∧
    answer (.encode .controlChange 17#5 (some 1#8) (some 2#8)) =
      some (.encoded (.ok (f3 0xB0#8 1#8 2#8))) ∧
    answer (.encode .controlChange 31#5 (some 1#8) (some 2#8)) =
      some (.encoded (.ok (f3 0xBE#8 1#8 2#8))) := by decide

/-! ### MATCH (V-MAT) -/

/-- Rows 1, 7, 8, 12, 13, 14, 15: true. -/
theorem test_match_true :
    [(f2 0xB1#8 90#8, f3 0xB1#8 90#8 45#8), (f1 0xB1#8, f2 0xB1#8 90#8),
      (f3 0xB1#8 90#8 45#8, f3 0xB1#8 90#8 45#8), (f1 0x90#8, f3 0x90#8 60#8 100#8),
      (f1 0xF0#8, f3 0xF0#8 1#8 2#8), (f2 0xB0#8 128#8, f3 0xB0#8 128#8 1#8),
      (f2 0xB0#8 90#8, f2 0xB0#8 90#8)].map (fun p => answer (.matchFrames p.1 p.2)) =
    List.replicate 7 (some (.matched true)) := by decide

/-- Rows 2, 3, 4, 5, 6, 9, 11: false. -/
theorem test_match_false :
    [(f2 0xB1#8 90#8, f2 0xB1#8 91#8), (⟨.empty, 0⟩, f2 0xB0#8 1#8), (f1 0xB0#8, ⟨.empty, 0⟩),
      (⟨.empty, 0⟩, ⟨.empty, 0⟩), (f2 0xB1#8 90#8, f1 0xB1#8),
      (f3 0xB1#8 90#8 45#8, f3 0xB1#8 90#8 46#8), (f2 0xB1#8 90#8, f2 0xB2#8 90#8)].map
      (fun p => answer (.matchFrames p.1 p.2)) =
    List.replicate 7 (some (.matched false)) := by decide

/-! ### CONFIGURE (V-CFG) -/

/-- Rows 1, 3, 4, 5, 7, 11, 19, 23, 24: Ok. -/
theorem test_configure_ok :
    [argsE2E, { argsE2E with actCh := 2#5, actVal := 90#8 }, { argsE2E with actSt := 0x9#4, actVal := 90#8 },
      { argsE2E with actVal := 91#8 }, { argsE2E with low := 20#8 }, { argsE2E with actCh := 16#5 },
      { argsE2E with timeout := 1 }, { argsE2E with enVal := 64#8, disVal := 64#8 },
      { argsE2E with high := 127#8 }].map (fun a => answer (.configure a)) =
    List.replicate 9 (some (.configured .ok)) := by decide

/-- Row 2 is ambiguous; rows 6, 8, 9, 10, 12 to 18, 20, 21, 22 are invalid. -/
theorem test_configure_rejects :
    answer (.configure { argsE2E with actVal := 90#8 }) = some (.configured .ambiguousSpec) ∧
    [{ argsE2E with low := 21#8 }, { argsE2E with trigCh := 0#5 }, { argsE2E with trigCh := 17#5 },
      { argsE2E with actCh := 0#5 }, { argsE2E with trigSt := 0xA#4 }, { argsE2E with actSt := 0xF#4 },
      { argsE2E with trigVal := 128#8 }, { argsE2E with actVal := 128#8 }, { argsE2E with enVal := 128#8 },
      { argsE2E with disVal := 255#8 }, { argsE2E with timeout := 0 }, { argsE2E with high := 128#8 },
      { argsE2E with low := 128#8, high := 200#8 },
      { argsE2E with trigCh := 0#5, actCh := 0#5, actVal := 90#8 }].map (fun a => answer (.configure a)) =
    List.replicate 14 (some (.configured .invalidConfig)) := by decide

/-! ### TICK -/

/-- P1 steps 2 and 3 (engage, refresh), P4 step 4, P5 step 9 (data1 fallback), P5 step 10 (own frame). -/
theorem test_tick_triggers :
    result (exec (.tick 0 (some (f3 0xB0#8 90#8 15#8))) (stateE2E false false 0#8 0)) =
      some (some (.ticked (some (f3 0xB0#8 94#8 127#8))), ⟨true, 15#8, true, 0⟩) ∧
    result (exec (.tick 100 (some (f3 0xB0#8 90#8 10#8))) (stateE2E true true 15#8 0)) =
      some (some (.ticked none), ⟨true, 10#8, true, 100⟩) ∧
    result (exec (.tick 710 (some (f3 0xB0#8 90#8 9#8))) (stateE2E false true 15#8 0)) =
      some (some (.ticked (some (f3 0xB0#8 94#8 127#8))), ⟨true, 9#8, true, 710⟩) ∧
    result (exec (.tick 70 (some (f2 0xB0#8 90#8))) (stateE2E false false 0#8 0)) =
      some (some (.ticked (some (f3 0xB0#8 94#8 127#8))), ⟨true, 90#8, true, 70⟩) ∧
    result (exec (.tick 80 (some (f3 0xB0#8 94#8 127#8))) (stateE2E true true 90#8 70)) =
      some (some (.ticked none), ⟨true, 90#8, true, 70⟩) := by decide

/-- The boundary vectors (elapsed 500 and 501), the band edges 20 and 21, P4 step 3 (the coincident trigger), and
the refusals of V-TICK. -/
theorem test_tick_timeouts :
    result (exec (.tick 1500 none) (stateE2E true true 20#8 1000)) =
      some (some (.ticked none), ⟨true, 20#8, true, 1000⟩) ∧
    result (exec (.tick 1501 none) (stateE2E true true 20#8 1000)) =
      some (some (.ticked (some (f3 0xB0#8 94#8 0#8))), ⟨false, 20#8, true, 1000⟩) ∧
    result (exec (.tick 1100 none) (stateE2E true true 21#8 502)) =
      some (some (.ticked none), ⟨true, 21#8, true, 502⟩) ∧
    result (exec (.tick 700 (some (f3 0xB0#8 90#8 10#8))) (stateE2E true true 15#8 0)) =
      some (some (.ticked (some (f3 0xB0#8 94#8 0#8))), ⟨false, 15#8, true, 0⟩) ∧
    refusal (exec (.tick 50 none) (stateE2E true true 15#8 100)) = some .clockBackwards ∧
    refusal (exec (.tick 100 (some (f2 0xB0#8 128#8))) (stateE2E true true 15#8 100)) = some .dataBit7 ∧
    refusal (exec (.tick 0 none) State.reset) = some .notConfigured := by decide

/-! ### Witnesses: a state and operands that meet each statement's hypotheses -/

theorem legalCfg_E2E : LegalCfg cfgE2E := by constructor <;> decide

theorem argsInRange_E2E : ArgsInRange argsE2E := by constructor <;> decide

/-- The trigger frame of E2E with data2 = 15 is a trigger match. -/
theorem isTrigger_E2E : IsTrigger cfgE2E (some (f3 0xB0#8 90#8 15#8))
    ⟨1#5, .controlChange, some 90#8, some 15#8, 0⟩ := ⟨_, rfl, rfl, rfl, rfl, rfl⟩

theorem noTrigger_none (c : CfgRegs) : NoTrigger c none :=
  ⟨fun f h => (Option.some_ne_none f h.symm).elim, fun m h => by obtain ⟨f, hf, -⟩ := h; cases hf⟩

/-- An engaged state with the trigger value 15 in band, and one with 50 out of band. -/
theorem inBand_E2E : InBand cfgE2E 15#8 ∧ InBand cfgE2E 0#8 ∧ InBand cfgE2E 20#8 ∧ ¬InBand cfgE2E 50#8 := by
  unfold InBand; decide

theorem timedOut_E2E : TimedOut (stateE2E true true 15#8 0) 501 ∧ ¬TimedOut (stateE2E true true 15#8 0) 500 := by
  unfold TimedOut InBand; decide

/-- An engaged state of the invariant whose next action is a polling iteration past the timeout. -/
theorem stateInv_asked : StateInv (stateAsked true true 15#8 7 [.poll 600]) := by
  constructor
  · intro _; rfl
  · intro m h; cases h
  · decide
  · intro _; exact legalCfg_E2E
  · intro _; decide
  · intro _; rfl

theorem witness_StepKeepsStateInvariant :
    StateInv (stateAsked true true 15#8 7 [.poll 600]) ∧
      ∃ t, step (stateAsked true true 15#8 7 [.poll 600]) = .next t := ⟨stateInv_asked, _, rfl⟩

/-- A disengaged configured state that has sent nothing and is asked for a TICK with the trigger frame. -/
theorem witness_StepKeepsAlternation :
    ∃ s t, Alternates s ∧ step s = .next t ∧ t.ctl.engaged = true :=
  ⟨stateAsked false false 0#8 0 [.request (encodeRequest (.tick 5 (some (f3 0xB0#8 90#8 15#8))))], _,
    ⟨rfl, by decide, fun h => by cases h⟩, rfl, rfl⟩

/-- Unconfigured states that differ in a configuration register, and disengaged ones that differ in ST.LTV. -/
theorem witness_UnreadStateNeverShows :
    SameToHost State.reset { State.reset with cfg := { CfgRegs.reset with trigVal := 7#8 } } ∧
      SameToHost (stateE2E false true 15#8 0) (stateE2E false true 16#8 9) :=
  ⟨⟨rfl, rfl, fun h => (by cases h), rfl, fun _ => rfl⟩, ⟨rfl, rfl, fun _ => rfl, rfl, fun h => (by cases h)⟩⟩

theorem witness_OnlyTickAndConfigureWriteRegisters :
    ∃ t, exec (.noteOn 0#4 .none 0) (stateE2E true true 15#8 0) = .next t := ⟨_, rfl⟩

theorem witness_ValidConfigurationNeverChanges :
    (stateAsked true true 15#8 0 [.poll 600]).cfg.valid = true ∧
      ∃ t, step (stateAsked true true 15#8 0 [.poll 600]) = .next t := ⟨rfl, _, rfl⟩

/-- Ports of length 2 that differ in lane 2 only. -/
theorem witness_LanesAboveLenAreIgnored :
    ∃ p q : FramePort, p ≠ q ∧ p.len = q.len ∧ p.tsl = q.tsl ∧ (1 ≤ p.len.toNat → p.lane0 = q.lane0) ∧
      (2 ≤ p.len.toNat → p.lane1 = q.lane1) ∧ (3 ≤ p.len.toNat → p.lane2 = q.lane2) :=
  ⟨⟨2#2, 0xB0#8, 90#8, 1#8, 0⟩, ⟨2#2, 0xB0#8, 90#8, 255#8, 0⟩, by decide⟩

theorem witness_InvalidPortValuesAreIgnored :
    zeroPorts.data1.valid = false ∧ zeroPorts.data2.valid = false ∧ zeroPorts.frameValid = false := by decide

theorem witness_EncodeOfDecodedWireFrame :
    decodeWire [0xB0#8, 90#8, 200#8] 4 = .ok (.controlChange 0#4 (.two 90#8 200#8) 4) := rfl

theorem witness_FramesHaveAtMostThreeBytes :
    (stateAsked false false 0#8 0 [.request (.wire [0xF0#8, 1#8, 2#8, 0xF7#8] 0)]).host.script =
      .request (.wire [0xF0#8, 1#8, 2#8, 0xF7#8] 0) :: [] ∧ 3 < [0xF0#8, 1#8, 2#8, 0xF7#8].length := by decide

theorem witness_UnassignedSelectIsRefused :
    0b101#3 ∈ [0b101#3, 0b110#3, 0b111#3] ∧ 0b111#3 ∈ [0b101#3, 0b110#3, 0b111#3] ∧
      (stateAsked false false 0#8 0 [.request (.op 0b101#3 zeroPorts)]).host.script =
        .request (.op 0b101#3 zeroPorts) :: [] := by decide

theorem witness_StepRunsDecodedRequest :
    (stateAsked false false 0#8 0 [.request (.wire [0x80#8] 0)]).host.script = .request (.wire [0x80#8] 0) :: [] ∧
      decodeRequest (.wire [0x80#8] 0) = .ok (.noteOff 0#4 .none 0) := ⟨rfl, rfl⟩

theorem witness_PollRunsOneTick :
    (stateAsked true true 15#8 7 [.poll 600]).host.script = .poll 600 :: [] := rfl

theorem witness_PolledClockNeverRunsBackwards :
    StateInv (stateAsked true true 15#8 7 [.poll 600]) ∧
      (stateAsked true true 15#8 7 [.poll 600]).host.script = .poll 600 :: [] := ⟨stateInv_asked, rfl⟩

theorem witness_NothingHappensUnasked : (stateE2E true true 15#8 0).host.script = [] := rfl

/-- The boundary 127 is in contract, 128 is not; each under the lowest and the highest recognised byte. -/
theorem witness_data_contract :
    (∀ b ∈ dataList (.two 127#8 0#8), b.toNat ≤ 127) ∧ (∃ b ∈ dataList (.two 127#8 128#8), 128 ≤ b.toNat) ∧
      Recognised 0x80#8 ∧ Recognised 0xCF#8 ∧ ¬Recognised 0xAF#8 := by
  refine ⟨by decide, ⟨128#8, by decide, by decide⟩, ?_⟩
  unfold Recognised; decide

theorem witness_DecodeSkipsEmptyAndExtended :
    (⟨.empty, 0⟩ : Frame).bytes = .empty ∧ (∃ b0 d, (f1 0xF0#8).bytes = .bytes b0 d ∧ 0xF0 ≤ b0.toNat) ∧
      (∃ b0 d, (f1 0xFF#8).bytes = .bytes b0 d ∧ 0xF0 ≤ b0.toNat) ∧
      (∃ t, exec (.tick 5 none) (stateE2E true true 15#8 0) = .next t) ∧
      ∃ t, exec (.tick 5 (some (f1 0xF0#8))) (stateE2E true true 15#8 0) = .next t :=
  ⟨rfl, ⟨_, _, rfl, by decide⟩, ⟨_, _, rfl, by decide⟩, ⟨_, rfl⟩, _, rfl⟩

theorem witness_DecodeReportsUnrecognizedStatus :
    (0x00#8).toNat / 16 ∈ [0x0, 0x1, 0x2, 0x3, 0x4, 0x5, 0x6, 0x7, 0xA, 0xD, 0xE] ∧
      (0xEF#8).toNat / 16 ∈ [0x0, 0x1, 0x2, 0x3, 0x4, 0x5, 0x6, 0x7, 0xA, 0xD, 0xE] ∧
      ∃ t, exec (.tick 5 (some (f2 0xA0#8 255#8))) (stateE2E true true 15#8 0) = .next t :=
  ⟨by decide, by decide, _, rfl⟩

/-- The second clause of DecodeRefusesBadData: a message with both data bytes at their boundaries. -/
theorem witness_DecodeRefusesBadData :
    ∃ t m, exec (.decode (f3 0xB0#8 127#8 0#8)) State.reset = .next t ∧
      t.host.response = some (.decoded (.ok m)) ∧ m.data1 = some 127#8 ∧ m.data2 = some 0#8 :=
  ⟨_, _, rfl, rfl, rfl, rfl⟩

theorem witness_EncodeBuildsFrame :
    (some 5#8 : Option Byte) ≠ none ∧ ((none : Option Byte) = none → (none : Option Byte) = none) ∧
      ((some 200#8 : Option Byte) = none → (some 255#8 : Option Byte) = none) := by decide

theorem witness_MalformedActionExactly :
    ∃ t, exec (.tick 0 (some (f3 0xB0#8 90#8 15#8))) (stateE2E false false 0#8 0) = .next t := ⟨_, rfl⟩

theorem witness_EncodeChannelOutsideRange : 1 ≤ 1 ∧ 1 ≤ 15 ∧ 1 ≤ 15 ∧ 15 ≤ 15 := by decide

/-- Candidates that differ in a trailing byte and in `tsl`, against a 2-byte pattern. -/
theorem witness_MatchIgnoresTailAndTsl :
    (f2 0xB1#8 90#8).bytes = (⟨.bytes 0xB1#8 (.one 90#8), 9⟩ : Frame).bytes ∧
      (f3 0xB1#8 90#8 45#8).bytes ≠ .empty ∧ (⟨.bytes 0xB1#8 (.two 90#8 46#8), 9⟩ : Frame).bytes ≠ .empty ∧
      (frameList (f3 0xB1#8 90#8 45#8)).take (frameList (f2 0xB1#8 90#8)).length =
        (frameList ⟨.bytes 0xB1#8 (.two 90#8 46#8), 9⟩).take (frameList (f2 0xB1#8 90#8)).length := by decide

/-- Channel 1 with no data, channel 16 with data at 127 and 0. -/
theorem witness_DecodeAfterEncode :
    (1 ≤ (1#5 : Channel).toNat ∧ (1#5 : Channel).toNat ≤ 16) ∧ (1 ≤ (16#5 : Channel).toNat ∧ (16#5 : Channel).toNat ≤ 16) ∧
      (∀ v, some 127#8 = some v → v.toNat ≤ 127) ∧ (∀ v, some 0#8 = some v → v.toNat ≤ 127) ∧
      ((some 127#8 : Option Byte) = none → (some 0#8 : Option Byte) = none) := by
  refine ⟨by decide, by decide, ?_, ?_, by decide⟩ <;> (intro v h; cases h; decide)

theorem witness_EncodeAfterDecode :
    exec (.decode (f2 0xC5#8 12#8)) State.reset =
      .next (State.reset.respond (.decoded (.ok ⟨6#5, .programChange, some 12#8, none, 0⟩))) := rfl

theorem witness_MatchAgreesWithTriggerTest :
    LegalCfg cfgE2E ∧
      decodeFrame (f3 0xB0#8 90#8 15#8) = .ok (.ok ⟨1#5, .controlChange, some 90#8, some 15#8, 0⟩) ∧
      decodeFrame (f1 0xF8#8) = .ok .decodeSkipped ∧ decodeFrame (f1 0xA0#8) = .ok .unrecognizedStatus :=
  ⟨legalCfg_E2E, rfl, rfl, rfl⟩

/-- One witness for each clause: configured; out of range (low 21 above high 20); ambiguous; accepted. -/
theorem witness_ConfigureFollowsItsPseudocode :
    (stateE2E false false 0#8 0).cfg.valid = true ∧ State.reset.cfg.valid = false ∧
      ¬ArgsInRange { argsE2E with low := 21#8 } ∧
      (ArgsInRange { argsE2E with actVal := 90#8 } ∧ SharesTriple { argsE2E with actVal := 90#8 }) ∧
      ArgsInRange argsE2E ∧ ¬SharesTriple argsE2E := by
  refine ⟨rfl, rfl, fun h => absurd h.band (by decide), ⟨?_, rfl, rfl, rfl⟩, argsInRange_E2E, ?_⟩
  · constructor <;> decide
  · unfold SharesTriple; decide

theorem witness_ConfigureChoicesDefault :
    (∃ a, decodeOp 0b011#3 zeroPorts = .ok (.configure a)) ∧ zeroPorts.config.bounds = none ∧
      zeroPorts.config.vsrc = none ∧
      ∃ a, decodeOp 0b011#3 { zeroPorts with
        config := { zeroPorts.config with bounds := some 1#1, vsrc := some 0#1 } } = .ok (.configure a) :=
  ⟨⟨_, rfl⟩, rfl, rfl, ⟨_, rfl⟩⟩

theorem witness_FailedConfigureMayBeRetried :
    ∃ t, exec (.configure { argsE2E with low := 21#8 }) State.reset = .next t ∧
      t.host.response = some (.configured .invalidConfig) ∧ ConfigOut.invalidConfig ≠ .ok ∧
      ArgsInRange argsE2E ∧ ¬SharesTriple argsE2E :=
  ⟨_, rfl, rfl, by decide, argsInRange_E2E, by unfold SharesTriple; decide⟩

theorem witness_AmbiguousExactlyWhenOwnFramesMatch :
    1 ≤ cfgE2E.trigCh.toNat ∧ cfgE2E.trigCh.toNat ≤ 16 ∧ 1 ≤ cfgE2E.actCh.toNat ∧ cfgE2E.actCh.toNat ≤ 16 ∧
      cfgE2E.trigVal.toNat ≤ 127 ∧ cfgE2E.actVal.toNat ≤ 127 := by decide

theorem witness_ActionFramesAreEncodedActions : LegalCfg cfgE2E := legalCfg_E2E

/-- One witness for each clause: not allowed; the timeout at 501; quiet at 500; a trigger while disengaged. -/
theorem witness_TickFollowsItsPseudocode :
    ¬TickAllowed State.reset 0 none ∧
      (TickAllowed (stateE2E true true 15#8 0) 501 none ∧ TimedOut (stateE2E true true 15#8 0) 501) ∧
      (TickAllowed (stateE2E true true 15#8 0) 500 none ∧ ¬TimedOut (stateE2E true true 15#8 0) 500 ∧
        ∀ m, ¬IsTrigger cfgE2E none m) ∧
      (TickAllowed (stateE2E false false 0#8 0) 0 (some (f3 0xB0#8 90#8 15#8)) ∧
        IsTrigger cfgE2E (some (f3 0xB0#8 90#8 15#8)) ⟨1#5, .controlChange, some 90#8, some 15#8, 0⟩) :=
  ⟨fun h => absurd h.1 (by decide),
    ⟨⟨rfl, fun _ => by decide, (noTrigger_none cfgE2E).1⟩, timedOut_E2E.1⟩,
    ⟨⟨rfl, fun _ => by decide, (noTrigger_none cfgE2E).1⟩, timedOut_E2E.2, (noTrigger_none cfgE2E).2⟩,
    ⟨⟨rfl, fun h => (by cases h), fun f h => by cases h; exact ⟨_, rfl⟩⟩, isTrigger_E2E⟩⟩

/-- One witness for each clause: unconfigured; one count behind ST.TLT; a bad data byte at `now = ST.TLT`. -/
theorem witness_TickRefusals :
    State.reset.cfg.valid = false ∧
      ((stateE2E true true 15#8 100).cfg.valid = true ∧ (stateE2E true true 15#8 100).ctl.engaged = true ∧
        99 < (stateE2E true true 15#8 100).ctl.tlt) ∧
      (stateE2E true true 15#8 100).ctl.tlt ≤ 100 ∧
      ∃ b0 d tsl, some (f2 0xB0#8 128#8) = some ⟨.bytes b0 d, tsl⟩ ∧ Recognised b0 ∧
        ∃ b ∈ dataList d, 128 ≤ b.toNat := by
  refine ⟨rfl, by decide, by decide, _, _, _, rfl, ?_, 128#8, by decide, by decide⟩
  unfold Recognised; decide

theorem witness_TimeoutBoundaryIsStrict :
    (stateE2E true true 15#8 0).cfg.valid = true ∧ (stateE2E true true 15#8 0).ctl.engaged = true ∧
      InBand (stateE2E true true 15#8 0).cfg (stateE2E true true 15#8 0).ctl.ltv :=
  ⟨rfl, rfl, inBand_E2E.1⟩

theorem witness_EngagesExactlyOnTriggerBytes :
    (stateE2E false false 0#8 0).ctl.engaged = false ∧ LegalCfg (stateE2E false false 0#8 0).cfg ∧
      ∃ t, exec (.tick 3 (some (f2 0xB0#8 90#8))) (stateE2E false false 0#8 0) = .next t :=
  ⟨rfl, legalCfg_E2E, _, rfl⟩

theorem witness_TickWritesOnlyWhatItNames :
    ∃ t, exec (.tick 501 none) (stateE2E true true 15#8 0) = .next t ∧ t.ctl.engaged = false := ⟨_, rfl, rfl⟩

theorem witness_StepSendsAtMostOneActionFrame :
    ∃ t, step (stateAsked true true 15#8 7 [.poll 600]) = .next t ∧
      t.host.sent = [f3 0xB0#8 94#8 0#8] := ⟨_, rfl, by decide⟩

theorem witness_OwnFramesNeverTrigger :
    (stateE2E true true 15#8 0).cfg.valid = true ∧ LegalCfg (stateE2E true true 15#8 0).cfg ∧
      ((stateE2E true true 15#8 0).ctl.engaged = true → (stateE2E true true 15#8 0).ctl.tlt ≤ 10) ∧
      f3 0xB0#8 94#8 127#8 = enableFrame (stateE2E true true 15#8 0).cfg :=
  ⟨rfl, legalCfg_E2E, by decide, by decide⟩

/-- S3: two refreshes, at 100 and 200. -/
theorem witness_RefreshesEmitNothing :
    (stateE2E true true 15#8 0).cfg.valid = true ∧ (stateE2E true true 15#8 0).ctl.engaged = true ∧
      RefreshesOnly [(100, some (f3 0xB0#8 90#8 15#8)), (200, some (f3 0xB0#8 90#8 15#8))]
        (stateE2E true true 15#8 0) := by
  refine ⟨rfl, rfl, by decide, ⟨_, isTrigger_E2E⟩, by unfold TimedOut InBand; decide, ?_⟩
  intro t h
  cases h
  exact ⟨by decide, ⟨_, isTrigger_E2E⟩, by unfold TimedOut InBand; decide, fun _ _ => trivial⟩

/-- S4: the timeout at 600, then silence at 610. -/
theorem witness_TimeoutSendsExactlyOneDisable :
    (stateE2E true true 15#8 0).cfg.valid = true ∧ (stateE2E true true 15#8 0).ctl.engaged = true ∧
      TimedOut (stateE2E true true 15#8 0) 600 ∧ NoTrigger cfgE2E none ∧
      ∀ p ∈ [((610 : Nat), (none : Option Frame))], NoTrigger cfgE2E p.2 := by
  refine ⟨rfl, rfl, by unfold TimedOut InBand; decide, noTrigger_none _, ?_⟩
  intro p hp
  rw [List.mem_singleton.1 hp]
  exact noTrigger_none _

/-- S5: the value 50, silence at 600 and at 5000. -/
theorem witness_HeldOutsideBandForever :
    (stateE2E true true 50#8 0).cfg.valid = true ∧ (stateE2E true true 50#8 0).ctl.engaged = true ∧
      ¬InBand (stateE2E true true 50#8 0).cfg (stateE2E true true 50#8 0).ctl.ltv ∧
      ∀ p ∈ [((600 : Nat), (none : Option Frame)), (5000, none)],
        (stateE2E true true 50#8 0).ctl.tlt ≤ p.1 ∧ NoTrigger cfgE2E p.2 := by
  refine ⟨rfl, rfl, inBand_E2E.2.2.2, ?_⟩
  intro p hp
  fin_cases hp <;> exact ⟨by decide, noTrigger_none _⟩

/-- The first TICK past the timeout, 501, after TICKs at 100 and at the boundary 500. -/
theorem witness_DisablesAtFirstTickPastTimeout :
    (stateE2E true true 20#8 0).cfg.valid = true ∧ (stateE2E true true 20#8 0).ctl.engaged = true ∧
      InBand (stateE2E true true 20#8 0).cfg (stateE2E true true 20#8 0).ctl.ltv ∧
      (∀ p ∈ [((100 : Nat), (none : Option Frame)), (500, none)],
        (stateE2E true true 20#8 0).ctl.tlt ≤ p.1 ∧
          p.1 ≤ (stateE2E true true 20#8 0).ctl.tlt + (stateE2E true true 20#8 0).cfg.timeout ∧
          NoTrigger cfgE2E p.2) ∧
      (stateE2E true true 20#8 0).ctl.tlt + (stateE2E true true 20#8 0).cfg.timeout < 501 ∧
      NoTrigger cfgE2E none := by
  refine ⟨rfl, rfl, inBand_E2E.2.2.1, ?_, by decide, noTrigger_none _⟩
  intro p hp
  fin_cases hp <;> exact ⟨by decide, by decide, noTrigger_none _⟩

/-- E2E with strict bounds and the band 20, 21. -/
theorem witness_NarrowStrictBandNeverReleases :
    ∃ s : State, s.cfg.valid = true ∧ s.cfg.bounds = .strict ∧ s.cfg.high.toNat ≤ s.cfg.low.toNat + 1 ∧
      s.ctl.engaged = true ∧ TickAllowed s 9000 none :=
  ⟨⟨{ cfgE2E with bounds := .strict, low := 20#8, high := 21#8 }, ⟨true, 20#8, true, 0⟩, HostSide.reset⟩,
    rfl, rfl, by decide, rfl, rfl, fun _ => by decide, (noTrigger_none cfgE2E).1⟩

/-- P4 step 3. -/
theorem witness_CoincidentTriggerIsDropped :
    TickAllowed (stateE2E true true 15#8 0) 700 (some (f3 0xB0#8 90#8 15#8)) ∧
      (stateE2E true true 15#8 0).ctl.engaged = true ∧ TimedOut (stateE2E true true 15#8 0) 700 ∧
      IsTrigger cfgE2E (some (f3 0xB0#8 90#8 15#8)) ⟨1#5, .controlChange, some 90#8, some 15#8, 0⟩ :=
  ⟨⟨rfl, fun _ => by decide, fun f h => by cases h; exact ⟨_, rfl⟩⟩, rfl,
    by unfold TimedOut InBand; decide, isTrigger_E2E⟩

/-- For the three statements on verdicts: an operation that raises one, and one that does not. -/
theorem witness_verdicts :
    (∃ t, exec (.configure { argsE2E with actVal := 90#8 }) State.reset = .next t ∧
      t.host.response = some (.configured .ambiguousSpec) ∧
      verdictOf (.configured .ambiguousSpec) ≠ .ok) ∧
    ∃ t, exec (.matchFrames (f1 0x90#8) (f1 0x90#8)) State.reset = .next t :=
  ⟨⟨_, rfl, rfl, by decide⟩, _, rfl⟩

end Sys2Proof.Tests
end

namespace Sys2Proof.Machine

/-! ### Who writes the registers (R44) -/

/-- TICK writes no configuration register, and of the host's side only the output record. -/
theorem execTick_frame {now : Nat} {fin : Option Frame} {s t : State} (h : execTick now fin s = .next t) :
    t.cfg = s.cfg ∧ t.host = { s.host with response := t.host.response } := by
  obtain ⟨-, ⟨-, -, rfl⟩ | ⟨-, -, rfl⟩ | ⟨-, m, -, rfl⟩⟩ := execTick_next_cases h
  · exact ⟨rfl, rfl⟩
  · exact ⟨rfl, rfl⟩
  · exact ⟨rfl, rfl⟩

/-- Settles O7, from the three things `exec` can do: a returned result writes no register, CONFIGURE is excluded
where its writes show, and TICK has its own frame. -/
theorem onlyTickAndConfigureWriteRegisters : Obligations.OnlyTickAndConfigureWriteRegisters := by
  intro i s t h
  obtain ⟨-, r, rfl, -⟩ | ⟨a, c, rfl, -, -, rfl⟩ | ⟨now, fin, rfl, ht⟩ := exec_next_cases h
  · exact ⟨fun _ _ => ⟨rfl, rfl⟩, fun _ => rfl, rfl⟩
  · exact ⟨fun _ hc => absurd rfl (hc a), fun hc => absurd rfl (hc a), rfl⟩
  · obtain ⟨hcfg, hhost⟩ := execTick_frame ht
    exact ⟨fun hn _ => absurd rfl (hn now fin), fun _ => hcfg, hhost⟩

end Sys2Proof.Machine

namespace Sys2Proof.Machine

/-! ### The status byte of an addressable channel (R74) -/

/-- On channels 1 to 16 neither reduction in the status byte's low nibble, modulo 32 or modulo 16, takes effect. -/
theorem statusByte_toNat_of_channel (k : StatusKind) {ch : Channel} (h1 : 1 ≤ ch.toNat) (h16 : ch.toNat ≤ 16) :
    (statusByte k ch).toNat = (nibOf k).toNat * 16 + (ch.toNat - 1) := by
  have hlow : (ch.toNat + 31) % 32 % 16 = ch.toNat - 1 := by omega
  rw [statusByte_toNat, hlow]

/-- Settles O11: the table row by row, `kind` by its two characterisations, the status byte on channels 1 to 16. -/
theorem statusKindCodes : Obligations.StatusKindCodes :=
  ⟨rfl, rfl, rfl, rfl, kindOf_eq_some_iff, kindOf_eq_none_iff, fun k _ => statusByte_toNat_of_channel k⟩

end Sys2Proof.Machine

namespace Sys2Proof.Machine

/-! ### DECODE and MATCH as operations (R100, R112) -/

/-- DECODE in any state answers what `decodeFrame` gives and changes only the output record. -/
theorem exec_decode_of_ok {f : Frame} {out : DecodeOut} (h : decodeFrame f = .ok out) (s : State) :
    exec (.decode f) s = .next (s.respond (.decoded out)) := by
  simp only [exec, execDecode, h]

/-- DECODE in any state refuses what `decodeFrame` refuses. -/
theorem exec_decode_of_error {f : Frame} {r : Refusal} (h : decodeFrame f = .error r) (s : State) :
    exec (.decode f) s = .refused r := by
  simp only [exec, execDecode, h]

/-- A recognised status byte with data in contract decodes to the message of its fields. -/
theorem decodeFrame_of_fields {b0 : Byte} {k : StatusKind} (hk : kindOf (topNibble b0) = some k) {d : DataBytes}
    (hd : ∀ b ∈ dataList d, b.toNat ≤ 127) (tsl : Nat) :
    decodeFrame ⟨.bytes b0 d, tsl⟩ = .ok (.ok (messageOf k (lowNibble b0) d tsl)) :=
  decodeFrame_eq_message_iff.2 ⟨b0, d, k, rfl, hk, (breaksContract_eq_false_iff d).2 hd, rfl⟩

/-- Settles O27: the message of the status byte's fields has its channel, its kind's code and its data as the
bit-field lemmas say. -/
theorem decodeExtractsFields : Obligations.DecodeExtractsFields := by
  intro b0 d tsl s hrec hd
  obtain ⟨k, hk⟩ := (recognised_iff b0).1 hrec
  have hnib : nibOf k = topNibble b0 := (kindOf_eq_some_iff _ k).1 hk
  refine ⟨messageOf k (lowNibble b0) d tsl, exec_decode_of_ok (decodeFrame_of_fields hk hd tsl) s,
    ?channel, ?status, data1Of_eq d, data2Of_eq d, rfl⟩
  case channel => exact (channelOf_toNat _).trans (congrArg (· + 1) (lowNibble_toNat b0))
  case status => exact (congrArg BitVec.toNat hnib).trans (topNibble_toNat b0)

/-- Settles O28: the outcome is `decodeFrame`'s, which reads no state, and its one refusal is a recognised status
byte with data out of contract. -/
theorem decodeIsPureAndTotal : Obligations.DecodeIsPureAndTotal := by
  intro f
  cases h : decodeFrame f with
  | ok out => exact .inl ⟨out, exec_decode_of_ok h⟩
  | error r =>
    obtain ⟨rfl, b0, d, k, hb, hk, hd⟩ := decodeFrame_eq_error_iff.1 h
    exact .inr ⟨⟨b0, d, hb, (recognised_iff b0).2 ⟨k, hk⟩, (breaksContract_eq_true_iff d).1 hd⟩,
      exec_decode_of_error h⟩

/-- Settles O32: MATCH returns `matchBytes`, which is the prefix test on non-empty frames. -/
theorem matchIsNonemptyPrefix : Obligations.MatchIsNonemptyPrefix :=
  fun p c _ => ⟨matchBytes p c, rfl, matchBytes_iff p c⟩

/-! ### Frames dropped with a soft verdict, in DECODE and inside TICK (R203, R204) -/

/-- A frame that DECODE answers with a verdict is no trigger. -/
theorem not_isTrigger_of_verdict {f : Frame} {v : DecodeOut} (h : decodeFrame f = .ok v) (hv : ∀ m, v ≠ .ok m)
    (c : CfgRegs) (m : Msg) : ¬IsTrigger c (some f) m := by
  rintro ⟨g, hg, hdec, -⟩
  cases hg
  rw [h] at hdec
  exact hv m (Except.ok.inj hdec)

theorem not_isTrigger_none (c : CfgRegs) (m : Msg) : ¬IsTrigger c none m := by
  rintro ⟨f, hf, -⟩
  cases hf

/-- A TICK with no trigger that completes records nothing, engages nothing, and returns a TICK record. -/
theorem execTick_without_trigger {now : Nat} {fin : Option Frame} {s t : State}
    (hn : ∀ m, ¬IsTrigger s.cfg fin m) (h : execTick now fin s = .next t) :
    t.ctl.ltv = s.ctl.ltv ∧ t.ctl.tlt = s.ctl.tlt ∧ (t.ctl.engaged = true → s.ctl.engaged = true) ∧
      ∃ out, t.host.response = some (.ticked out) := by
  obtain ⟨-, ⟨he, -, rfl⟩ | ⟨-, -, rfl⟩ | ⟨-, m, hm, -⟩⟩ := execTick_next_cases h
  · exact ⟨rfl, rfl, fun _ => he, _, rfl⟩
  · exact ⟨rfl, rfl, id, _, rfl⟩
  · exact absurd hm (hn m)

/-- R101's condition for DecodeSkipped is sufficient. -/
theorem decodeFrame_skipped {f : Frame}
    (h : f.bytes = .empty ∨ ∃ b0 d, f.bytes = .bytes b0 d ∧ 0xF0 ≤ b0.toNat) :
    decodeFrame f = .ok .decodeSkipped := by
  obtain ⟨bytes, tsl⟩ := f
  obtain rfl | ⟨b0, d, rfl, hge⟩ := h
  · exact decodeFrame_empty tsl
  · exact decodeFrame_extended hge d tsl

/-- Settles O24: the frame is skipped whatever the state, and neither it nor an absent frame triggers a TICK. -/
theorem decodeSkipsEmptyAndExtended : Obligations.DecodeSkipsEmptyAndExtended := by
  intro f s hf
  have hdec := decodeFrame_skipped hf
  refine ⟨exec_decode_of_ok hdec s, fun now fin t hfin htick => ?_⟩
  have hn : ∀ m, ¬IsTrigger s.cfg fin m := by
    obtain rfl | rfl := hfin
    · exact not_isTrigger_none s.cfg
    · exact not_isTrigger_of_verdict hdec (by simp) s.cfg
  obtain ⟨hltv, htlt, heng, -⟩ := execTick_without_trigger hn htick
  exact ⟨hltv, htlt, heng⟩

/-- R102's eleven codes lie below the extended ones and are no kind's. -/
theorem decodeFrame_unrecognised_code {b0 : Byte}
    (h : b0.toNat / 16 ∈ [0x0, 0x1, 0x2, 0x3, 0x4, 0x5, 0x6, 0x7, 0xA, 0xD, 0xE]) (d : DataBytes) (tsl : Nat) :
    decodeFrame ⟨.bytes b0 d, tsl⟩ = .ok .unrecognizedStatus := by
  simp only [List.mem_cons, List.not_mem_nil, or_false] at h
  have hnot : ¬Recognised b0 := by unfold Recognised; omega
  have hnone : kindOf (topNibble b0) = none :=
    Option.eq_none_iff_forall_ne_some.2 fun k hk => hnot ((recognised_iff b0).2 ⟨k, hk⟩)
  exact decodeFrame_unrecognised (by omega) hnone d tsl

/-- Settles O25: the frame is reported whatever the state, and inside a TICK it is no trigger. -/
theorem decodeReportsUnrecognizedStatus : Obligations.DecodeReportsUnrecognizedStatus := by
  intro b0 d tsl s hcode
  have hdec := decodeFrame_unrecognised_code hcode d tsl
  exact ⟨exec_decode_of_ok hdec s, fun now t htick =>
    execTick_without_trigger (not_isTrigger_of_verdict hdec (by simp) s.cfg) htick⟩

end Sys2Proof.Machine

namespace Sys2Proof.Machine

/-! ### CONFIGURE, outcome by outcome (R140) -/

theorem exec_configure_refused {s : State} (hv : s.cfg.valid = true) (a : ConfigArgs) :
    exec (.configure a) s = .refused .alreadyConfigured := by
  simp [exec, execConfigure, hv]

theorem exec_configure_verdict {a : ConfigArgs} {s : State} {v : ConfigOut} (hv : s.cfg.valid = false)
    (h : checkConfig a = .error v) : exec (.configure a) s = .next (s.respond (.configured v)) := by
  simp [exec, execConfigure, hv, h]

theorem exec_configure_accepted {a : ConfigArgs} {s : State} {c : CfgRegs} (hv : s.cfg.valid = false)
    (h : checkConfig a = .ok c) :
    exec (.configure a) s =
      .next (({ s with cfg := c, ctl := CtlRegs.reset } : State).respond (.configured .ok)) := by
  simp [exec, execConfigure, hv, h]

/-- In range and ambiguous (R143). -/
theorem checkConfig_ambiguous {a : ConfigArgs} (hr : ArgsInRange a) (hs : SharesTriple a) :
    checkConfig a = .error .ambiguousSpec := by
  obtain ⟨kt, ka, -, -, hc⟩ := checkConfig_in_range hr
  rw [hc, if_pos ((ambiguous_iff a).2 hs)]

/-- In range and not ambiguous: the registers that line 10 of R140 writes. -/
theorem checkConfig_accepted {a : ConfigArgs} (hr : ArgsInRange a) (hs : ¬SharesTriple a) :
    ∃ kt ka, nibOf kt = a.trigSt ∧ nibOf ka = a.actSt ∧ checkConfig a = .ok (registersOf a kt ka) := by
  obtain ⟨kt, ka, ht, ha, hc⟩ := checkConfig_in_range hr
  exact ⟨kt, ka, ht, ha, by rw [hc, if_neg (mt (ambiguous_iff a).1 hs)]⟩

/-- Settles O37, one outcome of the pseudocode for each clause. -/
theorem configureFollowsItsPseudocode : Obligations.ConfigureFollowsItsPseudocode := by
  intro a s
  refine ⟨fun hv => exec_configure_refused hv a,
    fun hv hr => exec_configure_verdict hv (checkConfig_out_of_range hr),
    fun hv hr hs => exec_configure_verdict hv (checkConfig_ambiguous hr hs), fun hv hr hs => ?_⟩
  obtain ⟨kt, ka, ht, ha, hc⟩ := checkConfig_accepted hr hs
  exact ⟨kt, ka, ht, ha, exec_configure_accepted hv hc⟩

/-! ### The action frames (R146, R147) -/

/-- An action frame is ENCODE of the action's four fields. -/
theorem exec_encode_action (a : ActionSpec) (s : State) :
    exec (.encode a.status a.channel (some a.value) (some a.auxValue)) s =
      .next (s.respond (.encoded (.ok (actionFrame a)))) := rfl

/-- ENCODE's masks leave the two data bytes of a legal action as they are. -/
theorem frameList_actionFrame {a : ActionSpec} (hv : a.value.toNat ≤ 127) (hx : a.auxValue.toNat ≤ 127) :
    frameList (actionFrame a) = [statusByte a.status a.channel, a.value, a.auxValue] := by
  simp [actionFrame, builtFrame, frameList, dataList, maskData_of_le hv, maskData_of_le hx]

/-- Settles O41: both frames are action frames of one channel, status and value, which `LegalCfg` keeps in range. -/
theorem actionFramesAreEncodedActions : Obligations.ActionFramesAreEncodedActions := by
  intro c s hc
  obtain ⟨hch1, hch16⟩ := hc.actCh_range
  exact ⟨⟨statusByte c.actSt c.actCh, statusByte_toNat_of_channel c.actSt hch1 hch16,
      frameList_actionFrame (a := enableSpec c) hc.actVal_le hc.enVal_le, rfl,
      frameList_actionFrame (a := disableSpec c) hc.actVal_le hc.disVal_le, rfl⟩,
    exec_encode_action (enableSpec c) s, exec_encode_action (disableSpec c) s⟩

/-! ### TICK, outcome by outcome (R150) -/

/-- What a trigger match writes to ST.*, with `Select(m)` written out for the data1 every match has (R157). -/
theorem recordTrigger_of_trigger {c : CfgRegs} {fin : Option Frame} {m : Msg} (h : IsTrigger c fin m) (now : Nat) :
    recordTrigger c now m =
      ⟨true, if c.vsrc = .data2ElseData1 then m.data2.getD c.trigVal else c.trigVal, true, now⟩ := by
  rw [recordTrigger, selectValue_of_trigger h]

/-- Settles O42: the refusal and the three things an allowed TICK does, one for each clause. -/
theorem tickFollowsItsPseudocode : Obligations.TickFollowsItsPseudocode := by
  refine fun now fin s => ⟨execTick_refused, exec_tick_timeout, exec_tick_quiet, fun m ha ht hm => ?_⟩
  rw [← recordTrigger_of_trigger hm now]
  exact exec_tick_trigger ha ht hm

/-! ### Refreshes (R166) -/

/-- The state after a trigger match on an engaged controller: match and time recorded, no frame returned. -/
def State.refreshed (s : State) (now : Nat) (m : Msg) : State :=
  ({ s with ctl := recordTrigger s.cfg now m } : State).respond (.ticked none)

/-- A refresh leaves nothing of the one before it. -/
theorem refreshed_refreshed (s : State) (now now' : Nat) (m m' : Msg) :
    (s.refreshed now m).refreshed now' m' = s.refreshed now' m' := rfl

/-- A frame carries at most one trigger match. -/
theorem isTrigger_unique {c : CfgRegs} {fin : Option Frame} {m m' : Msg} (h : IsTrigger c fin m)
    (h' : IsTrigger c fin m') : m = m' := by
  rw [← triggerOf_eq_some_iff] at h h'
  exact Option.some.inj (h.symm.trans h')

/-- DECODE does not refuse a frame that is a trigger match, so it breaks no contract of TICK. -/
theorem tickAllowed_of_trigger {now : Nat} {fin : Option Frame} {s : State} {m : Msg} (hv : s.cfg.valid = true)
    (hnow : s.ctl.tlt ≤ now) (hm : IsTrigger s.cfg fin m) : TickAllowed s now fin := by
  obtain ⟨f, rfl, hdec, -⟩ := hm
  refine ⟨hv, fun _ => hnow, fun g hg => ?_⟩
  cases hg
  exact ⟨_, hdec⟩

theorem exec_tick_refresh {now : Nat} {fin : Option Frame} {s : State} {m : Msg} (hv : s.cfg.valid = true)
    (he : s.ctl.engaged = true) (hnow : s.ctl.tlt ≤ now) (hm : IsTrigger s.cfg fin m) (ht : ¬TimedOut s now) :
    exec (.tick now fin) s = .next (s.refreshed now m) := by
  have h := exec_tick_trigger (tickAllowed_of_trigger hv hnow hm) (fun hto => ht hto.2) hm
  rwa [if_pos he] at h

/-- A run of refreshes ends where its last one alone would have led. -/
theorem runTicks_refreshes {ticks : List (Nat × Option Frame)} {s : State} (hv : s.cfg.valid = true)
    (he : s.ctl.engaged = true) (hr : RefreshesOnly ticks s) (hne : ticks ≠ []) :
    ∃ now fin m, ticks.getLast? = some (now, fin) ∧ IsTrigger s.cfg fin m ∧
      runTicks ticks s = .next (s.refreshed now m) := by
  induction ticks generalizing s with
  | nil => exact absurd rfl hne
  | cons p rest ih =>
    obtain ⟨now, fin⟩ := p
    obtain ⟨hnow, ⟨m, hm⟩, ht, hrest⟩ := hr
    have hexec := exec_tick_refresh hv he hnow hm ht
    have hrun : runTicks ((now, fin) :: rest) s = runTicks rest (s.refreshed now m) := by
      simp [runTicks, hexec, State.refreshed]
    rw [hrun]
    cases rest with
    | nil => exact ⟨now, fin, m, rfl, hm, rfl⟩
    | cons q rest =>
      obtain ⟨now', fin', m', hlast, hm', hrun'⟩ :=
        ih (s := s.refreshed now m) hv rfl (hrest _ hexec) (List.cons_ne_nil q rest)
      exact ⟨now', fin', m', by rwa [List.getLast?_cons_cons], hm', by rw [hrun', refreshed_refreshed]⟩

/-- Settles O49: the empty run changes nothing, and any other ends as its last refresh does. -/
theorem refreshesEmitNothing : Obligations.RefreshesEmitNothing := by
  intro ticks s hv he hr
  by_cases hne : ticks = []
  · subst hne
    exact ⟨s, rfl, he, rfl, fun h => absurd rfl h, rfl, fun _ _ _ h => by simp at h⟩
  · obtain ⟨now, fin, m, hlast, hm, hrun⟩ := runTicks_refreshes hv he hr hne
    refine ⟨s.refreshed now m, hrun, rfl, rfl, fun _ => rfl, rfl, fun now' fin' m' hlast' hm' => ?_⟩
    cases hlast.symm.trans hlast'
    cases isTrigger_unique hm hm'
    exact recordTrigger_of_trigger hm now

end Sys2Proof.Machine

namespace Sys2Proof.Machine

/-! ### The output record of each operation (R87 to R89) and its verdict (R202) -/

/-- A recognised frame that completes returned a message (R104). -/
theorem recognisedFrame_response {k : StatusKind} {ch : Nibble} {d : DataBytes} {tsl : Nat} {s t : State}
    (h : recognisedFrame k ch d tsl s = .next t) : ∃ m, t.host.response = some (.decoded (.ok m)) := by
  unfold recognisedFrame at h
  split at h
  · cases h
  · cases h
    exact ⟨_, rfl⟩

theorem exec_decode_response {f : Frame} {s t : State} (h : exec (.decode f) s = .next t) :
    ∃ out, t.host.response = some (.decoded out) := by
  cases hd : decodeFrame f with
  | ok out =>
    rw [exec_decode_of_ok hd] at h
    cases h
    exact ⟨out, rfl⟩
  | error r =>
    rw [exec_decode_of_error hd] at h
    cases h

theorem exec_configure_response {a : ConfigArgs} {s t : State} (h : exec (.configure a) s = .next t) :
    ∃ out, t.host.response = some (.configured out) := by
  cases hv : s.cfg.valid with
  | true =>
    rw [exec_configure_refused hv] at h
    cases h
  | false =>
    cases hc : checkConfig a with
    | error v =>
      rw [exec_configure_verdict hv hc] at h
      cases h
      exact ⟨v, rfl⟩
    | ok c =>
      rw [exec_configure_accepted hv hc] at h
      cases h
      exact ⟨.ok, rfl⟩

theorem execTick_response {now : Nat} {fin : Option Frame} {s t : State} (h : execTick now fin s = .next t) :
    ∃ out, t.host.response = some (.ticked out) := by
  obtain ⟨-, ⟨-, -, rfl⟩ | ⟨-, -, rfl⟩ | ⟨-, m, -, rfl⟩⟩ := execTick_next_cases h
  · exact ⟨_, rfl⟩
  · exact ⟨_, rfl⟩
  · exact ⟨_, rfl⟩

theorem verdictOf_decoded_mem (out : DecodeOut) :
    verdictOf (.decoded out) ∈ [.ok, .decodeSkipped, .unrecognizedStatus] := by
  cases out <;> simp [verdictOf]

theorem verdictOf_encoded_mem (out : EncodeOut) : verdictOf (.encoded out) ∈ [.ok, .malformedAction] := by
  cases out <;> simp [verdictOf]

theorem verdictOf_configured_mem (out : ConfigOut) :
    verdictOf (.configured out) ∈ [.ok, .ambiguousSpec, .invalidConfig] := by
  cases out <;> simp [verdictOf]

/-- A frame class or an operation that completes returned an output record with a verdict allowed it (R78, R202). -/
theorem exec_verdict_allowed {i : Instr} {s t : State} (h : exec i s = .next t) :
    ∃ r, t.host.response = some r ∧ verdictOf r ∈ mayReturn i := by
  have recognised : ∀ {k ch d tsl}, recognisedFrame k ch d tsl s = .next t →
      ∃ r, t.host.response = some r ∧ verdictOf r ∈ [.ok] := fun h => by
    obtain ⟨m, hm⟩ := recognisedFrame_response h
    exact ⟨_, hm, List.mem_singleton.2 rfl⟩
  have dropped : ∀ {v}, droppedFrame v s = .next t →
      ∃ r, t.host.response = some r ∧ verdictOf r ∈ [verdictOf (.decoded v)] := fun h => by
    cases h
    exact ⟨_, rfl, List.mem_singleton.2 rfl⟩
  cases i with
  | noteOff => exact recognised h
  | noteOn => exact recognised h
  | controlChange => exact recognised h
  | programChange => exact recognised h
  | unrecData => exact dropped h
  | unrecA => exact dropped h
  | unrecD => exact dropped h
  | unrecE => exact dropped h
  | extended => exact dropped h
  | empty => exact dropped h
  | decode f =>
    obtain ⟨out, hout⟩ := exec_decode_response h
    exact ⟨_, hout, verdictOf_decoded_mem out⟩
  | encode k ch d1 d2 =>
    cases h
    exact ⟨_, rfl, verdictOf_encoded_mem _⟩
  | matchFrames p c =>
    cases h
    exact ⟨_, rfl, List.mem_singleton.2 rfl⟩
  | configure a =>
    obtain ⟨out, hout⟩ := exec_configure_response h
    exact ⟨_, hout, verdictOf_configured_mem out⟩
  | tick now fin =>
    obtain ⟨out, hout⟩ := execTick_response h
    exact ⟨_, hout, List.mem_singleton.2 rfl⟩

/-- Arguments in range whose trigger and action agree in channel, status and value: the one fault is R143's. -/
def sameTripleArgs : ConfigArgs where
  trigCh := 1#5
  trigSt := 0x9#4
  trigVal := 60#8
  actCh := 1#5
  actSt := 0x9#4
  actVal := 60#8
  enVal := 127#8
  disVal := 0#8
  timeout := 500
  low := 10#8
  high := 20#8
  bounds := .inclusive
  vsrc := .data2ElseData1

theorem checkConfig_sameTripleArgs : checkConfig sameTripleArgs = .error .ambiguousSpec := rfl

/-- The range checks come before the ambiguity check (R142, R210). -/
theorem checkConfig_sameTripleArgs_without_timeout :
    checkConfig { sameTripleArgs with timeout := 0 } = .error .invalidConfig := rfl

/-- Settles O57: each operation's output record has an allowed verdict, and the five verdicts are reached from reset
by an empty frame, a first byte below 0x80, data2 without data1, an ambiguous configuration, and the same one with
no timeout. -/
theorem verdictsAreThoseOfTheMatrix : Obligations.VerdictsAreThoseOfTheMatrix :=
  ⟨fun _ _ _ => exec_verdict_allowed,
    ⟨⟨.empty, 0⟩, State.reset, exec_decode_of_ok (decodeFrame_empty 0) _⟩,
    ⟨⟨.bytes 0x00#8 .none, 0⟩, State.reset,
      exec_decode_of_ok (decodeFrame_unrecognised_code (by decide) .none 0) _⟩,
    ⟨.noteOn, 1#5, none, some 0#8, State.reset, rfl⟩,
    ⟨sameTripleArgs, State.reset, exec_configure_verdict rfl checkConfig_sameTripleArgs⟩,
    ⟨{ sameTripleArgs with timeout := 0 }, State.reset,
      exec_configure_verdict rfl checkConfig_sameTripleArgs_without_timeout⟩⟩

end Sys2Proof.Machine

namespace Sys2Proof.Machine

/-! ### The first-byte map and the wire encoder (R71, R78) -/

/-- The top nibble that a row of the first-byte map fixes; UNREC_DATA fixes bit 7 only. -/
def topOfClass (c : FrameClass) : Option Nibble :=
  match c with
  | .unrecData => none
  | .noteOff => some 0x8#4
  | .noteOn => some 0x9#4
  | .unrecA => some 0xA#4
  | .controlChange => some 0xB#4
  | .programChange => some 0xC#4
  | .unrecD => some 0xD#4
  | .unrecE => some 0xE#4
  | .extended => some 0xF#4

theorem classOf_append {c : FrameClass} {top : Nibble} (h : topOfClass c = some top) (low : Nibble) :
    classOf (top ++ low) = c := by
  revert top low; cases c <;> decide

theorem classOf_zero_append (low : BitVec 7) :
    classOf (0#1 ++ low) = .unrecData ∧ (0#1 ++ low).extractLsb' 0 7 = low := by
  revert low; decide

theorem append_lowNibble_of_classOf {b : Byte} {top : Nibble} (h : topOfClass (classOf b) = some top) :
    top ++ lowNibble b = b := by
  revert b top; decide

theorem zero_append_of_classOf {b : Byte} (h : classOf b = .unrecData) : 0#1 ++ b.extractLsb' 0 7 = b := by
  revert b; decide

/-- Settles O12: a frame class is read back through the first-byte map, an operation through its ports. -/
theorem decodeOfEncodedInstruction : Obligations.DecodeOfEncodedInstruction := by
  intro i
  cases i with
  | noteOff ch d tsl =>
    simp [encodeRequest, decodeRequest_wireOf, classify, classOf_append (c := .noteOff) rfl]
  | noteOn ch d tsl =>
    simp [encodeRequest, decodeRequest_wireOf, classify, classOf_append (c := .noteOn) rfl]
  | controlChange ch d tsl =>
    simp [encodeRequest, decodeRequest_wireOf, classify, classOf_append (c := .controlChange) rfl]
  | programChange ch d tsl =>
    simp [encodeRequest, decodeRequest_wireOf, classify, classOf_append (c := .programChange) rfl]
  | unrecData low d tsl =>
    simp [encodeRequest, decodeRequest_wire_cons, classify, classOf_zero_append low]
  | unrecA low d tsl =>
    simp [encodeRequest, decodeRequest_wireOf, classify, classOf_append (c := .unrecA) rfl]
  | unrecD low d tsl =>
    simp [encodeRequest, decodeRequest_wireOf, classify, classOf_append (c := .unrecD) rfl]
  | unrecE low d tsl =>
    simp [encodeRequest, decodeRequest_wireOf, classify, classOf_append (c := .unrecE) rfl]
  | extended low d tsl =>
    simp [encodeRequest, decodeRequest_wireOf, classify, classOf_append (c := .extended) rfl]
  | empty tsl => rfl
  | decode f => simp [encodeRequest, decodeRequest, decodeOp]
  | encode k ch d1 d2 => simp [encodeRequest, decodeRequest, decodeOp]
  | matchFrames p c => simp [encodeRequest, decodeRequest, decodeOp]
  | configure a => simp [encodeRequest, decodeRequest, decodeOp]
  | tick now fin => cases fin <;> simp [encodeRequest, decodeRequest, decodeOp, zeroPorts]

theorem encodeRequest_classify (b0 : Byte) (d : DataBytes) (tsl : Nat) :
    encodeRequest (classify b0 d tsl) = .wire (b0 :: dataList d) tsl := by
  have hwire : ∀ {top}, topOfClass (classOf b0) = some top →
      wireOf top (lowNibble b0) d tsl = .wire (b0 :: dataList d) tsl := fun h => by
    rw [wireOf, append_lowNibble_of_classOf h]
  unfold classify
  cases hc : classOf b0 with
  | unrecData => simp [encodeRequest, zero_append_of_classOf hc]
  | noteOff | noteOn | unrecA | controlChange | programChange | unrecD | unrecE | extended =>
    exact hwire (by rw [hc]; rfl)

theorem encodeRequest_instrOfFrame (f : Frame) : encodeRequest (instrOfFrame f) = .wire (frameList f) f.tsl := by
  obtain ⟨bytes, tsl⟩ := f
  cases bytes with
  | empty => rfl
  | bytes b0 d => exact encodeRequest_classify b0 d tsl

/-- The wire decoder reads a frame off the bytes and classifies it. -/
theorem decodeWire_eq_ok_iff {bytes : List Byte} {tsl : Nat} {i : Instr} :
    decodeWire bytes tsl = .ok i ↔ ∃ f, frameOfBytes bytes tsl = some f ∧ i = instrOfFrame f := by
  cases h : frameOfBytes bytes tsl <;> simp [decodeWire, h, eq_comm]

/-- The one rejection of the wire decoder (R70). -/
theorem decodeWire_eq_error_iff {bytes : List Byte} {tsl : Nat} {e : DecodeError} :
    decodeWire bytes tsl = .error e ↔ frameOfBytes bytes tsl = none ∧ e = .frameTooLong := by
  cases h : frameOfBytes bytes tsl <;> simp [decodeWire, h, eq_comm]

/-- Settles O13: the instruction is that of the frame the bytes make, and encodes to the frame's bytes. -/
theorem encodeOfDecodedWireFrame : Obligations.EncodeOfDecodedWireFrame := by
  intro bytes tsl i h
  obtain ⟨f, hf, rfl⟩ := decodeWire_eq_ok_iff.1 h
  obtain ⟨rfl, rfl⟩ := frameOfBytes_eq_some_iff.1 hf
  exact encodeRequest_instrOfFrame f

/-- Settles O16 by running the decoder on the five written words. -/
theorem writtenWordsDecode : Obligations.WrittenWordsDecode :=
  ⟨rfl, rfl, rfl, rfl, rfl⟩

/-! ### Operand ports (R13, R52, R84, R87) -/

theorem frameOfPort_len0 {p : FramePort} (h : p.len = 0#2) : frameOfPort p = ⟨.empty, p.tsl⟩ := by
  simp [frameOfPort, h]

theorem frameOfPort_len1 {p : FramePort} (h : p.len = 1#2) : frameOfPort p = ⟨.bytes p.lane0 .none, p.tsl⟩ := by
  simp [frameOfPort, h]

theorem frameOfPort_len2 {p : FramePort} (h : p.len = 2#2) :
    frameOfPort p = ⟨.bytes p.lane0 (.one p.lane1), p.tsl⟩ := by
  simp [frameOfPort, h]

theorem frameOfPort_len3 {p : FramePort} (h : p.len = 3#2) :
    frameOfPort p = ⟨.bytes p.lane0 (.two p.lane1 p.lane2), p.tsl⟩ := by
  simp [frameOfPort, h]

theorem len_cases (n : BitVec 2) : n = 0#2 ∨ n = 1#2 ∨ n = 2#2 ∨ n = 3#2 := by
  revert n; decide

/-- Settles O9, by the four lengths: each reads as many lanes as it says. -/
theorem lanesAboveLenAreIgnored : Obligations.LanesAboveLenAreIgnored := by
  intro p q hlen htsl h0 h1 h2
  rcases len_cases p.len with hp | hp | hp | hp
  · rw [frameOfPort_len0 hp, frameOfPort_len0 (hlen ▸ hp), htsl, hp]
    exact ⟨rfl, rfl⟩
  · have hlane0 := h0 (by simp [hp])
    rw [frameOfPort_len1 hp, frameOfPort_len1 (hlen ▸ hp), htsl, hlane0, hp]
    exact ⟨rfl, rfl⟩
  · have hlane0 := h0 (by simp [hp])
    have hlane1 := h1 (by simp [hp])
    rw [frameOfPort_len2 hp, frameOfPort_len2 (hlen ▸ hp), htsl, hlane0, hlane1, hp]
    exact ⟨rfl, rfl⟩
  · have hlane0 := h0 (by simp [hp])
    have hlane1 := h1 (by simp [hp])
    have hlane2 := h2 (by simp [hp])
    rw [frameOfPort_len3 hp, frameOfPort_len3 (hlen ▸ hp), htsl, hlane0, hlane1, hlane2, hp]
    exact ⟨rfl, rfl⟩

theorem optByteOfPort_invalid {p : OptBytePort} (h : p.valid = false) : optByteOfPort p = none := by
  simp [optByteOfPort, h]

/-- Settles O10: the decoder reads a data port through `optByteOfPort`, and TICK's frame port under `frameValid`. -/
theorem invalidPortValuesAreIgnored : Obligations.InvalidPortValuesAreIgnored := by
  refine fun sel p v => ⟨fun h => ?data1, fun h => ?data2, fun h f => ?frame⟩
  case data1 => simp only [decodeOp, optByteOfPort_invalid h, optByteOfPort_invalid (p := ⟨false, v⟩) rfl]
  case data2 => simp only [decodeOp, optByteOfPort_invalid h, optByteOfPort_invalid (p := ⟨false, v⟩) rfl]
  case frame => simp [decodeOp, h]

theorem decodeOp_unassigned {sel : BitVec 3} (h : sel ∈ [0b101#3, 0b110#3, 0b111#3]) (p : Ports) :
    decodeOp sel p = .error .unassignedSelect := by
  simp only [List.mem_cons, List.not_mem_nil, or_false] at h
  obtain rfl | rfl | rfl := h <;> rfl

theorem decodeOp_configure (p : Ports) : decodeOp 0b011#3 p = .ok (.configure (configOfPort p.config)) := rfl

/-- Settles O38: CONFIGURE's record is read off its port, the two choices through their bits. -/
theorem configureChoicesDefault : Obligations.ConfigureChoicesDefault := by
  intro ports a h
  rw [decodeOp_configure] at h
  cases h
  simp +contextual [configOfPort, boundsOfPort, vsrcOfPort]

/-! ### What a step runs (R60, R208) -/

/-- Settles O20. -/
theorem nothingHappensUnasked : Obligations.NothingHappensUnasked := by
  intro s h
  simp [step, takeAction, h]

/-- Settles O17. -/
theorem stepRunsDecodedRequest : Obligations.StepRunsDecodedRequest := by
  intro s r rest i hs hr
  simp [step, takeAction, hs, hr]

/-- A request that stands for no instruction has no step (R15). -/
theorem step_of_rejected {s : State} {r : Request} {rest : List HostAction} {e : DecodeError}
    (hs : s.host.script = .request r :: rest) (hr : decodeRequest r = .error e) :
    step s = .refused (refusalOf e) := by
  simp [step, takeAction, hs, hr]

/-- Settles O14: at most three bytes make a frame; more are rejected by the decoder. -/
theorem framesHaveAtMostThreeBytes : Obligations.FramesHaveAtMostThreeBytes := by
  refine ⟨fun bytes tsl => ?decodes, fun bytes tsl rest s hlen hs => ?stops⟩
  case decodes =>
    rw [← Nat.not_lt, ← frameOfBytes_eq_none_iff (tsl := tsl), ← ne_eq, Option.ne_none_iff_exists']
    simp [decodeWire_eq_ok_iff]
  case stops =>
    exact step_of_rejected hs (decodeWire_eq_error_iff.2 ⟨frameOfBytes_eq_none_iff.2 hlen, rfl⟩)

/-- Settles O15. -/
theorem unassignedSelectIsRefused : Obligations.UnassignedSelectIsRefused :=
  fun _ ports _ _ hsel hs => step_of_rejected hs (decodeOp_unassigned hsel ports)

/-- Settles O18: the request a polling iteration makes is read back as the TICK it encodes. -/
theorem pollRunsOneTick : Obligations.PollRunsOneTick := by
  intro s dt rest hs
  have hr : decodeRequest (pollRequest (s.host.clock + dt) (s.host.input.headD none)) =
      .ok (.tick (s.host.clock + dt) (s.host.input.headD none)) := decodeOfEncodedInstruction _
  simp only [step, takeAction, hs, hr]

theorem deliver_eq_refused_iff {o : Host.Outcome State Fault Refusal} {r : Refusal} :
    deliver o = .refused r ↔ o = .refused r := by
  cases o <;> simp [deliver]

theorem execTick_eq_refused_iff {now : Nat} {fin : Option Frame} {s : State} {r : Refusal} :
    execTick now fin s = .refused r ↔ tickRefusal now fin s = some r := by
  cases hr : tickRefusal now fin s <;> simp [execTick, hr]

/-- TICK is refused for the clock only while engaged with `now` behind ST.TLT (R151(b)). -/
theorem tickRefusal_clockBackwards {now : Nat} {fin : Option Frame} {s : State}
    (h : tickRefusal now fin s = some .clockBackwards) : s.ctl.engaged = true ∧ now < s.ctl.tlt := by
  unfold tickRefusal at h
  split at h
  · cases h
  · split at h
    · rename_i hc
      simpa using hc
    · split at h <;> cases h

/-- Settles O19: the clock only moves forward from a value that ST.TLT does not pass while engaged. -/
theorem polledClockNeverRunsBackwards : Obligations.PolledClockNeverRunsBackwards := by
  intro s dt rest hi hs h
  rw [pollRunsOneTick s dt rest hs] at h
  obtain ⟨he, hlt⟩ := tickRefusal_clockBackwards (execTick_eq_refused_iff.1 (deliver_eq_refused_iff.1 h))
  have htlt : s.ctl.tlt ≤ s.host.clock := hi.tlt_le_clock he
  have hlt' : s.host.clock + dt < s.ctl.tlt := hlt
  omega

end Sys2Proof.Machine

namespace Sys2Proof.Machine

/-! ### The state invariant (R45) -/

/-- Settles O1: every field of the reset state is written out. -/
theorem resetLeavesDisengagedUnconfigured : Obligations.ResetLeavesDisengagedUnconfigured :=
  ⟨rfl, rfl, rfl, rfl, rfl, rfl⟩

/-- Settles O2: at reset nothing is engaged, configured or returned, so each clause but LTV's is vacuous. -/
theorem stateInvariantHoldsAtReset : Obligations.StateInvariantHoldsAtReset where
  engaged_ltvValid h := by cases h
  response_legal _ h := by cases h
  ltv_le := Nat.zero_le _
  cfg_legal h := by cases h
  tlt_le_clock h := by cases h
  engaged_valid h := by cases h

/-- The message a completed instruction returned, if it returned one, is legal (R45(c)). -/
theorem exec_message_legal {i : Instr} {s t : State} {m : Msg} (h : exec i s = .next t)
    (hm : t.host.response = some (.decoded (.ok m))) : LegalMsg m := by
  obtain ⟨-, r, rfl, -, hr⟩ | ⟨a, c, -, -, -, rfl⟩ | ⟨now, fin, -, ht⟩ := exec_next_cases h
  · exact hr m (Option.some.inj hm)
  · cases hm
  · obtain ⟨out, hout⟩ := execTick_response ht
    rw [hout] at hm
    cases hm

/-- The invariant speaks of the registers, the last output record and the clock alone. -/
theorem stateInv_of_same_registers {s t : State} (hi : StateInv s) (hcfg : t.cfg = s.cfg) (hctl : t.ctl = s.ctl)
    (hresp : ∀ m, t.host.response = some (.decoded (.ok m)) → LegalMsg m)
    (hclock : s.ctl.engaged = true → s.ctl.tlt ≤ t.host.clock) : StateInv t where
  engaged_ltvValid := hctl ▸ hi.engaged_ltvValid
  response_legal := hresp
  ltv_le := hctl ▸ hi.ltv_le
  cfg_legal := hcfg ▸ hi.cfg_legal
  tlt_le_clock := hctl ▸ hclock
  engaged_valid := hctl ▸ hcfg ▸ hi.engaged_valid

theorem stateInv_sendReturned {s : State} (hi : StateInv s) : StateInv (sendReturned s) :=
  stateInv_of_same_registers hi (sendReturned_cfg s) (sendReturned_ctl s)
    (by rw [sendReturned_response]; exact hi.response_legal)
    (by rw [sendReturned_clock]; exact hi.tlt_le_clock)

/-- A successful CONFIGURE writes a legal configuration and disengages. -/
theorem stateInv_configured {a : ConfigArgs} {c : CfgRegs} (h : checkConfig a = .ok c) (s : State) :
    StateInv (({ s with cfg := c, ctl := CtlRegs.reset } : State).respond (.configured .ok)) where
  engaged_ltvValid he := by cases he
  response_legal _ hm := by cases hm
  ltv_le := Nat.zero_le _
  cfg_legal _ := (checkConfig_legal h).2
  tlt_le_clock he := by cases he
  engaged_valid he := by cases he

/-- A TICK given the clock's value leads from the registers of a state with the invariant to one with it, though
taking the request has moved the clock. -/
theorem stateInv_ticked {now : Nat} {fin : Option Frame} {s u v : State} (hi : StateInv s) (hcfg : u.cfg = s.cfg)
    (hctl : u.ctl = s.ctl) (hclock : u.host.clock = now) (h : execTick now fin u = .next v) : StateInv v := by
  obtain ⟨hallowed, hcases⟩ := execTick_next_cases h
  obtain ⟨hvalid, hbehind, -⟩ := hallowed
  obtain ⟨-, -, rfl⟩ | ⟨-, -, rfl⟩ | ⟨-, m, hm, rfl⟩ := hcases
  · exact {
      engaged_ltvValid := fun he => by cases he
      response_legal := fun _ hm => by cases hm
      ltv_le := hctl ▸ hi.ltv_le
      cfg_legal := hcfg ▸ hi.cfg_legal
      tlt_le_clock := fun he => by cases he
      engaged_valid := fun he => by cases he }
  · refine stateInv_of_same_registers hi hcfg hctl (fun _ hm => by cases hm) fun he => ?_
    rw [respond_clock, hclock, ← hctl]
    exact hbehind (hctl ▸ he)
  · exact {
      engaged_ltvValid := fun _ => rfl
      response_legal := fun _ hm => by cases hm
      ltv_le := selectValue_le hm
      cfg_legal := hcfg ▸ hi.cfg_legal
      tlt_le_clock := fun _ => hclock.ge
      engaged_valid := fun _ => hvalid }

/-- Settles O3, by what a step runs: a codec operation or a failed CONFIGURE leaves the registers and the clock, a
successful CONFIGURE starts afresh, and a TICK reads the clock it was given. -/
theorem stepKeepsStateInvariant : Obligations.StepKeepsStateInvariant := by
  intro s t hi h
  obtain ⟨-, rfl⟩ | ⟨r, u, i, v, hu, hr, hv, rfl⟩ := step_next_cases h
  · exact hi
  · obtain ⟨hcfg, hctl, -, -⟩ := takeAction_frame hu
    apply stateInv_sendReturned
    obtain ⟨hi', q, rfl, -, -⟩ | ⟨a, c, -, -, hc, rfl⟩ | ⟨now, fin, rfl, ht⟩ := exec_next_cases hv
    · refine stateInv_of_same_registers hi hcfg hctl (fun m => exec_message_legal hv) fun he => ?_
      rw [respond_clock, clock_of_decoded_other hu hr hi']
      exact hi.tlt_le_clock he
    · exact stateInv_configured hc u
    · exact stateInv_ticked hi hcfg hctl (clock_of_decoded_tick hu hr) ht

/-! ### The output stream (R45(b), R158, R247) -/

/-- What an operation and the host's sending after it do to the output stream and to ST.ENGAGED: nothing, or
CONFIGURE initialised, or an enable frame was sent, or a disable frame. -/
theorem exec_emission_cases {i : Instr} {s t : State} (h : exec i s = .next t) :
    (t.cfg = s.cfg ∧ t.ctl.engaged = s.ctl.engaged ∧ (sendReturned t).host.sent = s.host.sent) ∨
    (s.cfg.valid = false ∧ t.cfg.valid = true ∧ t.ctl.engaged = false ∧
      (sendReturned t).host.sent = s.host.sent) ∨
    (t.cfg = s.cfg ∧ s.ctl.engaged = false ∧ t.ctl.engaged = true ∧ s.cfg.valid = true ∧
      (sendReturned t).host.sent = s.host.sent ++ [enableFrame s.cfg]) ∨
    (t.cfg = s.cfg ∧ s.ctl.engaged = true ∧ t.ctl.engaged = false ∧ s.cfg.valid = true ∧
      (sendReturned t).host.sent = s.host.sent ++ [disableFrame s.cfg]) := by
  obtain ⟨-, r, rfl, hr, -⟩ | ⟨a, c, -, hv, hc, rfl⟩ | ⟨now, fin, -, ht⟩ := exec_next_cases h
  · have hquiet := sendReturned_of_no_frame (s := s.respond r) fun f hf => hr _ (Option.some.inj hf)
    exact .inl ⟨rfl, rfl, by rw [hquiet, respond_sent]⟩
  · exact .inr (.inl ⟨hv, (checkConfig_legal hc).1, rfl, rfl⟩)
  · obtain ⟨⟨hv, -, -⟩, ⟨he, -, rfl⟩ | ⟨-, -, rfl⟩ | ⟨-, m, hm, rfl⟩⟩ := execTick_next_cases ht
    · exact .inr (.inr (.inr ⟨rfl, he, rfl, hv, rfl⟩))
    · exact .inl ⟨rfl, rfl, rfl⟩
    · cases he : s.ctl.engaged with
      | true => exact .inl ⟨rfl, rfl, rfl⟩
      | false => exact .inr (.inr (.inl ⟨rfl, rfl, rfl, hv, rfl⟩))

/-- The same of a step. -/
theorem step_emission_cases {s t : State} (h : step s = .next t) :
    (t.cfg = s.cfg ∧ t.ctl.engaged = s.ctl.engaged ∧ t.host.sent = s.host.sent) ∨
    (s.cfg.valid = false ∧ t.cfg.valid = true ∧ t.ctl.engaged = false ∧ t.host.sent = s.host.sent) ∨
    (t.cfg = s.cfg ∧ s.ctl.engaged = false ∧ t.ctl.engaged = true ∧ s.cfg.valid = true ∧
      t.host.sent = s.host.sent ++ [enableFrame s.cfg]) ∨
    (t.cfg = s.cfg ∧ s.ctl.engaged = true ∧ t.ctl.engaged = false ∧ s.cfg.valid = true ∧
      t.host.sent = s.host.sent ++ [disableFrame s.cfg]) := by
  obtain ⟨-, rfl⟩ | ⟨r, u, i, v, hu, -, hv, rfl⟩ := step_next_cases h
  · exact .inl ⟨rfl, rfl, rfl⟩
  · obtain ⟨hcfg, hctl, hsent, -⟩ := takeAction_frame hu
    have hcases := exec_emission_cases hv
    rw [hcfg, hctl, hsent] at hcases
    rwa [sendReturned_cfg, sendReturned_ctl]

/-- Settles O8: of the four things a step can do, only CONFIGURE writes CFG.*, and it asks for CFG.VALID = 0. -/
theorem validConfigurationNeverChanges : Obligations.ValidConfigurationNeverChanges := by
  intro s t hv h
  obtain ⟨hcfg, -⟩ | ⟨hv', -⟩ | ⟨hcfg, -⟩ | ⟨hcfg, -⟩ := step_emission_cases h
  · exact hcfg
  · rw [hv] at hv'
    cases hv'
  · exact hcfg
  · exact hcfg

/-- Settles O47. -/
theorem stepSendsAtMostOneActionFrame : Obligations.StepSendsAtMostOneActionFrame := by
  intro s t h
  obtain ⟨-, -, hs⟩ | ⟨-, -, -, hs⟩ | ⟨-, he, he', -, hs⟩ | ⟨-, he, he', -, hs⟩ := step_emission_cases h
  · exact .inl hs
  · exact .inl hs
  · exact .inr (.inl ⟨he, he', hs⟩)
  · exact .inr (.inr ⟨he, he', hs⟩)

theorem emission_succ (c : CfgRegs) (n : Nat) :
    emission c (n + 1) = emission c n ++ [if n % 2 = 0 then enableFrame c else disableFrame c] := by
  simp [emission, List.range_succ]

/-- Settles O4. -/
theorem alternationHoldsAtReset : Obligations.AlternationHoldsAtReset where
  sent_eq := rfl
  engaged_iff := by simp [State.reset, CtlRegs.reset, HostSide.reset]
  unconfigured_silent _ := rfl

/-- An odd number of frames sent means engaged, an even number disengaged. -/
theorem sent_length_mod_two {s : State} (hi : Alternates s) :
    s.host.sent.length % 2 = if s.ctl.engaged then 1 else 0 := by
  split
  · exact hi.engaged_iff.1 ‹_›
  · rename_i he
    rw [hi.engaged_iff] at he
    omega

/-- An alternating stream grows by the frame whose turn it is, while ST.ENGAGED flips with it. -/
theorem alternates_of_sent_next {s t : State} (hi : Alternates s) (hcfg : t.cfg = s.cfg) (hv : s.cfg.valid = true)
    (hflip : t.ctl.engaged = !s.ctl.engaged)
    (hsent : t.host.sent = s.host.sent ++ [if s.ctl.engaged then disableFrame s.cfg else enableFrame s.cfg]) :
    Alternates t where
  sent_eq := by
    have hturn : (if s.host.sent.length % 2 = 0 then enableFrame s.cfg else disableFrame s.cfg) =
        if s.ctl.engaged then disableFrame s.cfg else enableFrame s.cfg := by
      rw [sent_length_mod_two hi]
      cases s.ctl.engaged <;> rfl
    rw [hcfg, hsent, List.length_append, List.length_singleton, emission_succ, ← hi.sent_eq, hturn]
  engaged_iff := by
    rw [hflip, hsent, List.length_append, List.length_singleton, Nat.add_mod, sent_length_mod_two hi]
    cases s.ctl.engaged <;> decide
  unconfigured_silent hv' := by
    rw [hcfg, hv] at hv'
    cases hv'

/-- Settles O5: a step leaves the stream and the flag, or configures an unconfigured controller, which has sent
nothing, or sends the frame whose turn it is. -/
theorem stepKeepsAlternation : Obligations.StepKeepsAlternation := by
  intro s t hi h
  obtain ⟨hcfg, he, hs⟩ | ⟨hv, hv', he, hs⟩ | ⟨hcfg, he, he', hv, hs⟩ | ⟨hcfg, he, he', hv, hs⟩ :=
    step_emission_cases h
  · exact ⟨by rw [hcfg, hs]; exact hi.sent_eq, by rw [he, hs]; exact hi.engaged_iff,
      by rw [hcfg, hs]; exact hi.unconfigured_silent⟩
  · have hnone : t.host.sent = [] := hs.trans (hi.unconfigured_silent hv)
    exact ⟨by rw [hnone]; rfl, by simp [hnone, he], fun _ => hnone⟩
  · exact alternates_of_sent_next hi hcfg hv (by rw [he, he']; rfl) (by rw [hs, he]; rfl)
  · exact alternates_of_sent_next hi hcfg hv (by rw [he, he']; rfl) (by rw [hs, he]; rfl)

/-! ### What the host cannot tell apart (R46, 93_implementation_defined.md section 3) -/

theorem sameToHost_refl (s : State) : SameToHost s s := ⟨rfl, rfl, fun _ => rfl, rfl, fun _ => rfl⟩

theorem sameToHost_respond {s t : State} (h : SameToHost s t) (r : Response) :
    SameToHost (s.respond r) (t.respond r) where
  host_eq := by rw [respond_host, respond_host, h.host_eq]
  valid_eq := h.valid_eq
  cfg_eq := h.cfg_eq
  engaged_eq := h.engaged_eq
  ctl_eq := h.ctl_eq

/-- The host's side decides what the host sends. -/
theorem sendReturned_eq (s : State) :
    sendReturned s = { s with host := (sendReturned { State.reset with host := s.host }).host } := by
  unfold sendReturned
  dsimp only
  split <;> rfl

theorem sameToHost_with_host {s t : State} (h : SameToHost s t) (host : HostSide) :
    SameToHost { s with host := host } { t with host := host } :=
  ⟨rfl, h.valid_eq, h.cfg_eq, h.engaged_eq, h.ctl_eq⟩

theorem sameToHost_with_cfg {s t : State} (h : SameToHost s t) (cfg : CfgRegs) :
    SameToHost { s with cfg := cfg } { t with cfg := cfg } :=
  ⟨h.host_eq, rfl, fun _ => rfl, h.engaged_eq, h.ctl_eq⟩

theorem sameToHost_with_ctl {s t : State} (h : SameToHost s t) (ctl : CtlRegs) :
    SameToHost { s with ctl := ctl } { t with ctl := ctl } :=
  ⟨h.host_eq, h.valid_eq, h.cfg_eq, rfl, fun _ => rfl⟩

theorem sameToHost_sendReturned {s t : State} (h : SameToHost s t) :
    SameToHost (sendReturned s) (sendReturned t) := by
  rw [sendReturned_eq s, sendReturned_eq t, h.host_eq]
  exact sameToHost_with_host h _

theorem outcomesRelated_refl {R : State → State → Prop} (h : ∀ s, R s s)
    (o : Host.Outcome State Fault Refusal) : OutcomesRelated R o o := by
  cases o with
  | next s => exact h s
  | fault r => rfl
  | refused r => rfl

theorem outcomesRelated_deliver {o o' : Host.Outcome State Fault Refusal}
    (h : OutcomesRelated SameToHost o o') : OutcomesRelated SameToHost (deliver o) (deliver o') := by
  cases o <;> cases o' <;> simp only [OutcomesRelated, deliver] at h ⊢
  · exact sameToHost_sendReturned h
  · exact h
  · exact h

/-- CONFIGURE reads CFG.VALID alone and overwrites every register it does not keep. -/
theorem execConfigure_related {s t : State} (h : SameToHost s t) (a : ConfigArgs) :
    OutcomesRelated SameToHost (exec (.configure a) s) (exec (.configure a) t) := by
  cases hv : s.cfg.valid with
  | true =>
    rw [exec_configure_refused hv, exec_configure_refused (h.valid_eq ▸ hv)]
    rfl
  | false =>
    have hv' : t.cfg.valid = false := h.valid_eq ▸ hv
    cases hc : checkConfig a with
    | error v =>
      rw [exec_configure_verdict hv hc, exec_configure_verdict hv' hc]
      exact sameToHost_respond h _
    | ok c =>
      rw [exec_configure_accepted hv hc, exec_configure_accepted hv' hc]
      exact sameToHost_respond (sameToHost_with_ctl (sameToHost_with_cfg h c) _) _

/-- Two states the host cannot tell apart are one state while configured and engaged. -/
theorem sameToHost_eq {s t : State} (h : SameToHost s t) (hv : s.cfg.valid = true) (he : s.ctl.engaged = true) :
    s = t := by
  obtain ⟨cfg, ctl, host⟩ := s
  obtain ⟨cfg', ctl', host'⟩ := t
  obtain rfl : host = host' := h.host_eq
  obtain rfl : cfg = cfg' := h.cfg_eq hv
  obtain rfl : ctl = ctl' := h.ctl_eq he
  rfl

/-- A disengaged controller's TICK is refused by CFG.VALID and the frame alone. -/
theorem tickRefusal_of_disengaged {s t : State} (h : SameToHost s t) (he : s.ctl.engaged = false) (now : Nat)
    (fin : Option Frame) : tickRefusal now fin s = tickRefusal now fin t := by
  simp [tickRefusal, he, h.engaged_eq ▸ he, h.valid_eq]

/-- A configured, disengaged controller's TICK reads neither ST.LTV, ST.LTV_VALID nor ST.TLT. -/
theorem execTick_related_of_disengaged {s t : State} (h : SameToHost s t) (hv : s.cfg.valid = true)
    (he : s.ctl.engaged = false) (now : Nat) (fin : Option Frame) :
    OutcomesRelated SameToHost (execTick now fin s) (execTick now fin t) := by
  have he' : t.ctl.engaged = false := h.engaged_eq ▸ he
  have hcfg : s.cfg = t.cfg := h.cfg_eq hv
  have hrefusal := tickRefusal_of_disengaged h he now fin
  cases hr : tickRefusal now fin s with
  | some r =>
    have hr' := hrefusal ▸ hr
    simp [execTick, hr, hr', OutcomesRelated]
  | none =>
    have ha := (tickRefusal_eq_none_iff now fin s).1 hr
    have ha' := (tickRefusal_eq_none_iff now fin t).1 (hrefusal ▸ hr)
    have hq : ¬(s.ctl.engaged = true ∧ TimedOut s now) := by simp [he]
    have hq' : ¬(t.ctl.engaged = true ∧ TimedOut t now) := by simp [he']
    by_cases hm : ∀ m, ¬IsTrigger s.cfg fin m
    · rw [exec_tick_quiet ha hq hm, exec_tick_quiet ha' hq' (hcfg ▸ hm)]
      exact sameToHost_respond h _
    · obtain ⟨m, hm⟩ := not_forall_not.1 hm
      have hrel := sameToHost_respond (sameToHost_with_ctl h (recordTrigger s.cfg now m))
        (.ticked (some (enableFrame s.cfg)))
      rw [exec_tick_trigger ha hq hm, exec_tick_trigger ha' hq' (hcfg ▸ hm), he, he']
      simpa [OutcomesRelated, hcfg] using hrel

theorem execTick_related {s t : State} (h : SameToHost s t) (now : Nat) (fin : Option Frame) :
    OutcomesRelated SameToHost (execTick now fin s) (execTick now fin t) := by
  cases hv : s.cfg.valid with
  | false =>
    have hv' : t.cfg.valid = false := h.valid_eq ▸ hv
    simp [execTick, tickRefusal, hv, hv', OutcomesRelated]
  | true =>
    cases he : s.ctl.engaged with
    | false => exact execTick_related_of_disengaged h hv he now fin
    | true =>
      rw [← sameToHost_eq h hv he]
      exact outcomesRelated_refl sameToHost_refl _

/-- No instruction shows the difference: the codec reads no register, CONFIGURE only CFG.VALID. -/
theorem exec_related {s t : State} (h : SameToHost s t) (i : Instr) :
    OutcomesRelated SameToHost (exec i s) (exec i t) := by
  by_cases ht : ∃ now fin, i = .tick now fin
  · obtain ⟨now, fin, rfl⟩ := ht
    exact execTick_related h now fin
  · by_cases hc : ∃ a, i = .configure a
    · obtain ⟨a, rfl⟩ := hc
      exact execConfigure_related h a
    · obtain ⟨r, hr⟩ | ⟨e, he⟩ := exec_codec_pure (i := i) (fun now fin hi => ht ⟨now, fin, hi⟩)
        fun a hi => hc ⟨a, hi⟩
      · rw [hr, hr]
        exact sameToHost_respond h r
      · rw [he, he]
        rfl

/-- Settles O6: the host's side decides the request, and neither the instruction nor the sending shows more. -/
theorem unreadStateNeverShows : Obligations.UnreadStateNeverShows := by
  intro s t h
  have hs := takeAction_eq s
  have ht := takeAction_eq t
  rw [h.host_eq] at hs
  cases hp : takeAction { State.reset with host := t.host } with
  | none =>
    rw [hp] at hs ht
    simpa [step, hs, ht, OutcomesRelated] using h
  | some p =>
    rw [hp] at hs ht
    cases hr : decodeRequest p.1 with
    | error e => simp [step, hs, ht, hr, OutcomesRelated]
    | ok i =>
      have hrel := outcomesRelated_deliver (exec_related (sameToHost_with_host h p.2.host) i)
      simpa [step, hs, ht, hr] using hrel

end Sys2Proof.Machine

namespace Sys2Proof.Machine

/-! ### The frame classes (R78, R100) -/

theorem recognisedFrame_in_contract {d : DataBytes} (h : ∀ b ∈ dataList d, b.toNat ≤ 127) (k : StatusKind)
    (ch : Nibble) (tsl : Nat) (s : State) :
    recognisedFrame k ch d tsl s = .next (s.respond (.decoded (.ok
      ⟨BitVec.ofNat 5 (ch.toNat + 1), k, (dataList d)[0]?, (dataList d)[1]?, tsl⟩))) := by
  simp [recognisedFrame, (breaksContract_eq_false_iff d).2 h, messageOf, channelOf_eq_ofNat, data1Of_eq, data2Of_eq]

theorem recognisedFrame_bad_data {d : DataBytes} (h : ∃ b ∈ dataList d, 128 ≤ b.toNat) (k : StatusKind)
    (ch : Nibble) (tsl : Nat) (s : State) : recognisedFrame k ch d tsl s = .refused .dataBit7 := by
  simp [recognisedFrame, (breaksContract_eq_true_iff d).2 h]

/-- Settles O21: the four recognised classes share one meaning, and so do the six dropped ones. -/
theorem frameClassesComplete : Obligations.FrameClassesComplete :=
  fun n _ _ tsl s =>
    ⟨fun hd => ⟨recognisedFrame_in_contract hd _ n tsl s, recognisedFrame_in_contract hd _ n tsl s,
      recognisedFrame_in_contract hd _ n tsl s, recognisedFrame_in_contract hd _ n tsl s⟩,
    rfl, rfl, rfl, rfl, rfl, rfl⟩

/-- Settles O22. -/
theorem frameClassesRefuseBadData : Obligations.FrameClassesRefuseBadData :=
  fun n _ tsl s hd => ⟨recognisedFrame_bad_data hd _ n tsl s, recognisedFrame_bad_data hd _ n tsl s,
    recognisedFrame_bad_data hd _ n tsl s, recognisedFrame_bad_data hd _ n tsl s⟩

/-- The status kind of a class of the first-byte map. -/
def kindOfClass (c : FrameClass) : Option StatusKind :=
  match c with
  | .noteOff => some .noteOff
  | .noteOn => some .noteOn
  | .controlChange => some .controlChange
  | .programChange => some .programChange
  | .unrecData | .unrecA | .unrecD | .unrecE | .extended => none

/-- The map and the kind codes name the same kinds (R74, R78). -/
theorem kindOf_topNibble (b : Byte) : kindOf (topNibble b) = kindOfClass (classOf b) := by
  revert b; decide

theorem classOf_eq_extended_iff (b : Byte) : classOf b = .extended ↔ 0xF0 ≤ b.toNat := by
  revert b; decide

/-- A recognised class means DECODE of its frame. -/
theorem recognisedFrame_eq_decode {b0 : Byte} {k : StatusKind} (h : kindOfClass (classOf b0) = some k)
    (d : DataBytes) (tsl : Nat) (s : State) :
    recognisedFrame k (lowNibble b0) d tsl s = exec (.decode ⟨.bytes b0 d, tsl⟩) s := by
  have hdec := decodeFrame_recognised ((kindOf_topNibble b0).trans h) d tsl
  rw [recognisedFrame]
  split at hdec
  · rw [if_pos ‹_›, exec_decode_of_error hdec]
  · rw [if_neg ‹_›, exec_decode_of_ok hdec]

/-- A class that is neither recognised nor extended is dropped as DECODE drops its frame. -/
theorem droppedFrame_eq_decode {b0 : Byte} (hk : kindOfClass (classOf b0) = none) (hx : classOf b0 ≠ .extended)
    (d : DataBytes) (tsl : Nat) (s : State) :
    droppedFrame .unrecognizedStatus s = exec (.decode ⟨.bytes b0 d, tsl⟩) s := by
  have hlt : b0.toNat < 0xF0 := Nat.not_le.1 (mt (classOf_eq_extended_iff b0).2 hx)
  exact (exec_decode_of_ok (decodeFrame_unrecognised hlt ((kindOf_topNibble b0).trans hk) d tsl) s).symm

/-- Settles O23, class by class. -/
theorem frameClassAgreesWithDecode : Obligations.FrameClassAgreesWithDecode := by
  rintro ⟨bytes, tsl⟩ s
  cases bytes with
  | empty => rfl
  | bytes b0 d =>
    simp only [instrOfFrame, classify]
    cases hc : classOf b0 with
    | noteOff | noteOn | controlChange | programChange =>
      exact recognisedFrame_eq_decode (by rw [hc]; rfl) d tsl s
    | unrecData | unrecA | unrecD | unrecE =>
      exact droppedFrame_eq_decode (by rw [hc]; rfl) (by simp [hc]) d tsl s
    | extended =>
      exact (exec_decode_of_ok (decodeFrame_extended ((classOf_eq_extended_iff b0).1 hc) d tsl) s).symm

/-! ### DECODE's data contract (R103) -/

theorem decodeFrame_bad_data {b0 : Byte} (hb : Recognised b0) {d : DataBytes}
    (hd : ∃ b ∈ dataList d, 128 ≤ b.toNat) (tsl : Nat) :
    decodeFrame ⟨.bytes b0 d, tsl⟩ = .error .dataBit7 := by
  obtain ⟨k, hk⟩ := (recognised_iff b0).1 hb
  exact decodeFrame_eq_error_iff.2 ⟨rfl, b0, d, k, rfl, hk, (breaksContract_eq_true_iff d).2 hd⟩

/-- Settles O26: bad data is an error of `decodeFrame`, and a returned message is legal. -/
theorem decodeRefusesBadData : Obligations.DecodeRefusesBadData := by
  refine ⟨fun b0 d tsl s hb hd => exec_decode_of_error (decodeFrame_bad_data hb hd tsl) s,
    fun f s t m v h hm hv => ?_⟩
  have hlegal := exec_message_legal h hm
  exact hv.elim (hlegal.data1_le v) (hlegal.data2_le v)

/-! ### ENCODE (R106 to R111) -/

theorem exec_encode (k : StatusKind) (ch : Channel) (d1 d2 : Option Byte) (s : State) :
    exec (.encode k ch d1 d2) s = .next (s.respond (.encoded (encodeFrame k ch d1 d2))) := rfl

theorem frameList_builtFrame (b0 : Byte) (d : DataBytes) : frameList (builtFrame b0 d) = b0 :: dataList d := rfl

/-- The data bytes of two data operands, as far as they are there. -/
def dataOf (d1 d2 : Option Byte) : DataBytes :=
  match d1, d2 with
  | some v1, some v2 => .two v1 v2
  | some v1, none => .one v1
  | none, _ => .none

/-- ENCODE of operands that are not malformed. -/
theorem encodeFrame_wellFormed {d1 d2 : Option Byte} (h : d1 = none → d2 = none) (k : StatusKind) (ch : Channel) :
    encodeFrame k ch d1 d2 =
      .ok (builtFrame (statusByte k ch) (dataOf (d1.map maskData) (d2.map maskData))) := by
  cases d1 with
  | none => rw [h rfl]; rfl
  | some v1 => cases d2 <;> rfl

theorem dataList_dataOf {d1 d2 : Option Byte} (h : d1 = none → d2 = none) :
    dataList (dataOf d1 d2) = d1.toList ++ d2.toList := by
  cases d1 with
  | none => rw [h rfl]; rfl
  | some v1 => cases d2 <;> rfl

theorem dataOf_data1Of_data2Of (d : DataBytes) : dataOf (data1Of d) (data2Of d) = d := by
  cases d <;> rfl

theorem data1Of_dataOf (d1 d2 : Option Byte) : data1Of (dataOf d1 d2) = d1 := by
  cases d1 <;> cases d2 <;> rfl

theorem data2Of_dataOf {d1 d2 : Option Byte} (h : d1 = none → d2 = none) : data2Of (dataOf d1 d2) = d2 := by
  cases d1 with
  | none => rw [h rfl]; rfl
  | some v1 => cases d2 <;> rfl

/-- Masking leaves a data operand in contract as it is. -/
theorem map_maskData_of_le {d : Option Byte} (h : ∀ v, d = some v → v.toNat ≤ 127) : d.map maskData = d := by
  cases d with
  | none => rfl
  | some v => exact congrArg some (maskData_of_le (h v rfl))

/-- Data2 without data1 is the one malformed action (R107). -/
theorem encodeFrame_eq_malformed_iff (k : StatusKind) (ch : Channel) (d1 d2 : Option Byte) :
    encodeFrame k ch d1 d2 = .malformedAction ↔ d1 = none ∧ d2.isSome = true := by
  cases d1 <;> cases d2 <;> simp

/-- Settles O29. -/
theorem encodeBuildsFrame : Obligations.EncodeBuildsFrame := by
  refine fun k ch d1 d2 s => ⟨fun h1 h2 => ?malformed, fun h => ?built⟩
  case malformed =>
    rw [exec_encode, (encodeFrame_eq_malformed_iff k ch d1 d2).2 ⟨h1, Option.isSome_iff_ne_none.2 h2⟩]
  case built =>
    refine ⟨_, statusByte k ch, by rw [exec_encode, encodeFrame_wellFormed h], ?_, statusByte_toNat k ch, rfl⟩
    have hdata := dataList_dataOf (d1 := d1.map maskData) (d2 := d2.map maskData) (by simpa using h)
    have hmask : maskData = fun v => BitVec.ofNat 8 (v.toNat % 128) := funext maskData_eq_ofNat
    rw [frameList_builtFrame, hdata, Option.toList_map, Option.toList_map, ← List.map_append, hmask]

/-- Settles O30: ENCODE by its one malformed case, TICK by its record's form. -/
theorem malformedActionExactly : Obligations.MalformedActionExactly := by
  refine fun k ch d1 d2 s => ⟨?encode, fun now fin t h hmal => ?tick⟩
  case encode =>
    rw [exec_encode, Host.Outcome.next.injEq, respond_inj, Response.encoded.injEq, encodeFrame_eq_malformed_iff]
  case tick =>
    obtain ⟨out, hout⟩ := execTick_response h
    rw [hout] at hmal
    cases hmal

/-- The status byte reads of a channel only `channel - 1` modulo 16 (R108). -/
theorem statusByte_congr {ch ch' : Channel} (h : (ch.toNat + 31) % 32 % 16 = (ch'.toNat + 31) % 32 % 16)
    (k : StatusKind) : statusByte k ch = statusByte k ch' := by
  apply BitVec.eq_of_toNat_eq
  rw [statusByte_toNat, statusByte_toNat, h]

theorem exec_encode_congr {ch ch' : Channel} (h : (ch.toNat + 31) % 32 % 16 = (ch'.toNat + 31) % 32 % 16)
    (k : StatusKind) (d1 d2 : Option Byte) (s : State) :
    exec (.encode k ch d1 d2) s = exec (.encode k ch' d1 d2) s := by
  rw [exec_encode, exec_encode, encodeFrame_congr (statusByte_congr h k)]

/-- Settles O31: the channels named agree modulo 16, and ENCODE has no refusal. -/
theorem encodeChannelOutsideRange : Obligations.EncodeChannelOutsideRange := by
  refine ⟨exec_encode_congr rfl, fun k n d1 d2 s h1 h15 => exec_encode_congr ?_ k d1 d2 s,
    fun k ch d1 d2 s => ⟨_, exec_encode k ch d1 d2 s⟩⟩
  rw [BitVec.toNat_ofNat, BitVec.toNat_ofNat]
  omega

/-! ### The round trips (40_codec.md section 4) -/

/-- Settles O34: masking leaves the operands as they are, and DECODE of a built frame reads them back. -/
theorem decodeAfterEncode : Obligations.DecodeAfterEncode := by
  intro k ch d1 d2 s h1 h16 hd1 hd2 hd
  have hcontract : breaksContract (dataOf d1 d2) = false := by
    rw [breaksContract_eq_false_iff, dataList_dataOf hd]
    intro b hb
    rw [List.mem_append, Option.mem_toList, Option.mem_toList] at hb
    exact hb.elim (hd1 b) (hd2 b)
  have hdec := decodeFrame_built k ch h1 h16 (dataOf d1 d2) hcontract
  rw [data1Of_dataOf, data2Of_dataOf hd] at hdec
  refine ⟨builtFrame (statusByte k ch) (dataOf d1 d2), ?_, exec_decode_of_ok hdec s⟩
  rw [exec_encode, encodeFrame_wellFormed hd, map_maskData_of_le hd1, map_maskData_of_le hd2]

/-- DECODE of `f` completed with message `m` only if `decodeFrame` gave it. -/
theorem decodeFrame_of_exec_decode {f : Frame} {s : State} {out : DecodeOut}
    (h : exec (.decode f) s = .next (s.respond (.decoded out))) : decodeFrame f = .ok out := by
  cases hd : decodeFrame f with
  | ok out' =>
    rw [exec_decode_of_ok hd, Host.Outcome.next.injEq, respond_inj, Response.decoded.injEq] at h
    rw [h]
  | error r =>
    rw [exec_decode_of_error hd] at h
    cases h

/-- Settles O35: the message's fields are those of the frame, whose status byte and data ENCODE puts back. -/
theorem encodeAfterDecode : Obligations.EncodeAfterDecode := by
  intro f s m h
  have hdec := decodeFrame_of_exec_decode h
  have hlegal := decodeFrame_legal hdec
  have hd : m.data1 = none → m.data2 = none := by simpa using mt hlegal.data2_needs_data1
  obtain ⟨b0, d, k, hf, hk, -, hm⟩ := decodeFrame_eq_message_iff.1 hdec
  refine ⟨builtFrame b0 d, ?_, hf.symm⟩
  rw [exec_encode, encodeFrame_wellFormed hd, map_maskData_of_le hlegal.data1_le, map_maskData_of_le hlegal.data2_le]
  simp [hm, messageOf, statusByte_of_fields hk, dataOf_data1Of_data2Of]

/-! ### MATCH (R112 to R115) -/

theorem frameList_eq_nil_iff (f : Frame) : frameList f = [] ↔ f.bytes = .empty := by
  obtain ⟨bytes, tsl⟩ := f
  cases bytes <;> simp [frameList]

theorem frameList_congr {f g : Frame} (h : f.bytes = g.bytes) : frameList f = frameList g := by
  rw [frameList, frameList, h]

/-- Settles O33: the test reads the pattern's bytes and as many of the candidate's. -/
theorem matchIgnoresTailAndTsl : Obligations.MatchIgnoresTailAndTsl := by
  intro p p' c c' s hp hc hc' htake
  have hbit : matchBytes p c = matchBytes p' c' := by
    rw [Bool.eq_iff_iff, matchBytes_iff, matchBytes_iff, List.prefix_iff_eq_take, List.prefix_iff_eq_take,
      ← frameList_congr hp, htake, ne_eq (frameList c), ne_eq (frameList c'), frameList_eq_nil_iff,
      frameList_eq_nil_iff]
    simp [hc, hc']
  simp only [exec, execMatchFrames, hbit]

/-- The trigger pattern is the trigger's status byte and value, when the value is a data value (R148). -/
theorem frameList_triggerPattern {c : CfgRegs} (h : c.trigVal.toNat ≤ 127) :
    frameList (triggerPattern c) = [statusByte c.trigSt c.trigCh, c.trigVal] := by
  simp [triggerPattern, frameList_builtFrame, dataList, maskData_of_le h]

/-- MATCH against the trigger pattern tests a frame's first two bytes. -/
theorem matchBytes_triggerPattern_iff {c : CfgRegs} (h : c.trigVal.toNat ≤ 127) (f : Frame) :
    matchBytes (triggerPattern c) f = true ↔
      ∃ rest, frameList f = statusByte c.trigSt c.trigCh :: c.trigVal :: rest := by
  rw [matchBytes_iff, frameList_triggerPattern h]
  constructor
  · rintro ⟨-, -, rest, hrest⟩
    exact ⟨rest, hrest.symm⟩
  · rintro ⟨rest, hrest⟩
    exact ⟨by simp, by simp [hrest], rest, hrest.symm⟩

/-- DECODE drops no frame that begins with a status byte ENCODE builds. -/
theorem frameList_ne_of_verdict {f : Frame} {v : DecodeOut} (h : decodeFrame f = .ok v) (hv : ∀ m, v ≠ .ok m)
    (k : StatusKind) (ch : Channel) (rest : List Byte) : frameList f ≠ statusByte k ch :: rest := by
  obtain ⟨bytes, tsl⟩ := f
  cases bytes with
  | empty => exact fun hl => by cases hl
  | bytes b0 d =>
    intro hl
    obtain rfl : b0 = statusByte k ch := (List.cons.inj hl).1
    rw [decodeFrame_recognised (k := k) (by simp)] at h
    split at h
    · cases h
    · exact hv _ (Except.ok.inj h).symm

/-- Settles O36: both tests say what the first two bytes are. -/
theorem matchAgreesWithTriggerTest : Obligations.MatchAgreesWithTriggerTest := by
  intro c f s hc
  refine ⟨fun m hm => ⟨matchBytes (triggerPattern c) f, rfl, ?message⟩, fun hsoft => ?dropped⟩
  case message => rw [matchBytes_triggerPattern_iff hc.trigVal_le, triggerTest_iff_bytes hc.trigCh_range hm]
  case dropped =>
    have hv : ∃ v, decodeFrame f = .ok v ∧ ∀ m, v ≠ .ok m := by
      obtain h | h := hsoft
      · exact ⟨_, h, by simp⟩
      · exact ⟨_, h, by simp⟩
    obtain ⟨v, hdec, hv⟩ := hv
    have hbit : matchBytes (triggerPattern c) f = false := by
      rw [Bool.eq_false_iff, ne_eq, matchBytes_triggerPattern_iff hc.trigVal_le, not_exists]
      exact fun rest => frameList_ne_of_verdict hdec hv _ _ _
    simp only [exec, execMatchFrames, hbit]

/-- The trigger pattern leads an action frame exactly when the two agree in channel, status and data1. -/
theorem matchBytes_actionFrame_iff {c : CfgRegs} {a : ActionSpec} (ht : 1 ≤ c.trigCh.toNat ∧ c.trigCh.toNat ≤ 16)
    (ha : 1 ≤ a.channel.toNat ∧ a.channel.toNat ≤ 16) (hv : c.trigVal.toNat ≤ 127) (hav : a.value.toNat ≤ 127) :
    matchBytes (triggerPattern c) (actionFrame a) = true ↔
      c.trigCh = a.channel ∧ c.trigSt = a.status ∧ c.trigVal = a.value := by
  have hbytes : frameList (actionFrame a) =
      [statusByte a.status a.channel, a.value, maskData a.auxValue] := by
    simp [actionFrame, frameList_builtFrame, dataList, maskData_of_le hav]
  rw [matchBytes_triggerPattern_iff hv, hbytes, ← and_assoc, ← statusByte_inj ht.1 ht.2 ha.1 ha.2]
  simp [eq_comm]

/-- Settles O40: the enable and the disable action share channel, status and value. -/
theorem ambiguousExactlyWhenOwnFramesMatch : Obligations.AmbiguousExactlyWhenOwnFramesMatch := by
  intro c s ht1 ht16 ha1 ha16 htv hav
  have henable := matchBytes_actionFrame_iff (a := enableSpec c) ⟨ht1, ht16⟩ ⟨ha1, ha16⟩ htv hav
  have hdisable := matchBytes_actionFrame_iff (a := disableSpec c) ⟨ht1, ht16⟩ ⟨ha1, ha16⟩ htv hav
  have hsame : matchBytes (triggerPattern c) (disableFrame c) = matchBytes (triggerPattern c) (enableFrame c) :=
    Bool.eq_iff_iff.2 (hdisable.trans henable.symm)
  exact ⟨matchBytes (triggerPattern c) (enableFrame c), rfl, by rw [← hsame]; rfl, henable⟩

/-! ### CONFIGURE after a verdict (R141, R145) -/

/-- If CONFIGURE completes, the controller was unconfigured, and the check gave its verdict or its registers. -/
theorem exec_configure_next_cases {a : ConfigArgs} {s t : State} (h : exec (.configure a) s = .next t) :
    s.cfg.valid = false ∧
    ((∃ v, checkConfig a = .error v ∧ t = s.respond (.configured v)) ∨
      (∃ c, checkConfig a = .ok c ∧
        t = ({ s with cfg := c, ctl := CtlRegs.reset } : State).respond (.configured .ok))) := by
  cases hv : s.cfg.valid with
  | true =>
    rw [exec_configure_refused hv] at h
    cases h
  | false =>
    refine ⟨rfl, ?_⟩
    cases hc : checkConfig a with
    | error v =>
      rw [exec_configure_verdict hv hc] at h
      cases h
      exact .inl ⟨v, rfl, rfl⟩
    | ok c =>
      rw [exec_configure_accepted hv hc] at h
      cases h
      exact .inr ⟨c, rfl, rfl⟩

theorem exec_tick_notConfigured {s : State} (h : s.cfg.valid = false) (now : Nat) (fin : Option Frame) :
    exec (.tick now fin) s = .refused .notConfigured :=
  execTick_eq_refused_iff.2 (by simp [tickRefusal, h])

/-- Settles O39: a verdict leaves CFG.VALID clear, so TICK is refused and CONFIGURE may succeed. -/
theorem failedConfigureMayBeRetried : Obligations.FailedConfigureMayBeRetried := by
  intro a b s t v h hresp hv
  obtain ⟨hvalid, ⟨w, -, rfl⟩ | ⟨c, -, rfl⟩⟩ := exec_configure_next_cases h
  · refine ⟨exec_tick_notConfigured hvalid, fun hr hs => ?_⟩
    obtain ⟨kt, ka, -, -, hc⟩ := checkConfig_accepted hr hs
    exact ⟨_, exec_configure_accepted hvalid hc, rfl, rfl, rfl⟩
  · cases hresp
    exact absurd rfl hv

/-! ### Verdicts (R200, R201, R212) -/

/-- Settles O58. -/
theorem verdictCodes : Obligations.VerdictCodes := ⟨rfl, rfl, rfl, rfl, rfl, rfl⟩

/-- Settles O59: of the three things `exec` can do, only a returned result can carry a verdict other than Ok. -/
theorem verdictsWriteNoRegister : Obligations.VerdictsWriteNoRegister := by
  intro i s t r h hr hv
  obtain ⟨-, q, rfl, -⟩ | ⟨a, c, -, -, -, rfl⟩ | ⟨now, fin, -, ht⟩ := exec_next_cases h
  · exact ⟨rfl, rfl, by rw [respond_host, ← hr, respond_response]⟩
  · cases hr
    exact absurd rfl hv
  · obtain ⟨out, hout⟩ := execTick_response ht
    cases hout.symm.trans hr
    exact absurd rfl hv

end Sys2Proof.Machine

namespace Sys2Proof.Machine

/-! ### TICK, refused and allowed (R151) -/

theorem execTick_of_allowed {now : Nat} {fin : Option Frame} {s : State} (h : TickAllowed s now fin) :
    ∃ t, execTick now fin s = .next t :=
  ⟨tickEffect now fin s, by rw [execTick, (tickRefusal_eq_none_iff now fin s).2 h]⟩

theorem exec_tick_clockBackwards {now : Nat} {s : State} (hv : s.cfg.valid = true) (he : s.ctl.engaged = true)
    (hnow : now < s.ctl.tlt) (fin : Option Frame) : exec (.tick now fin) s = .refused .clockBackwards :=
  execTick_eq_refused_iff.2 (by simp [tickRefusal, hv, he, hnow])

theorem exec_tick_dataBit7 {now : Nat} {f : Frame} {s : State} {r : Refusal} (hv : s.cfg.valid = true)
    (hclock : s.ctl.engaged = true → s.ctl.tlt ≤ now) (hf : decodeFrame f = .error r) :
    exec (.tick now (some f)) s = .refused .dataBit7 := by
  have hc : (s.ctl.engaged && decide (now < s.ctl.tlt)) = false := by simpa using hclock
  exact execTick_eq_refused_iff.2 (by simp [tickRefusal, frameRefused, hv, hc, hf])

/-- Settles O43, one breach for each clause, in the order in which TICK tests them. -/
theorem tickRefusals : Obligations.TickRefusals := by
  refine fun now fin s => ⟨fun hv => exec_tick_notConfigured hv now fin,
    fun hv he hnow => exec_tick_clockBackwards hv he hnow fin, fun hv hclock hbad => ?_⟩
  obtain ⟨b0, d, tsl, rfl, hb, hd⟩ := hbad
  exact exec_tick_dataBit7 hv hclock (decodeFrame_bad_data hb hd tsl)

/-! ### What TICK reads of a frame (R84, R156) -/

/-- A DECODE result with another `tsl` in its message. -/
def DecodeOut.withTsl (out : DecodeOut) (tsl : Nat) : DecodeOut :=
  match out with
  | .ok m => .ok { m with tsl := tsl }
  | .decodeSkipped => .decodeSkipped
  | .unrecognizedStatus => .unrecognizedStatus

/-- DECODE copies the frame's `tsl` and does nothing else with it (R104). -/
theorem decodeFrame_withTsl (bytes : FrameBytes) (tsl tsl' : Nat) :
    decodeFrame ⟨bytes, tsl'⟩ = (decodeFrame ⟨bytes, tsl⟩).map (·.withTsl tsl') := by
  cases bytes with
  | empty => rfl
  | bytes b0 d =>
    rcases Nat.lt_or_ge b0.toNat 0xF0 with hlt | hge
    · cases hk : kindOf (topNibble b0) with
      | none => rw [decodeFrame_unrecognised hlt hk, decodeFrame_unrecognised hlt hk]; rfl
      | some k =>
        rw [decodeFrame_recognised hk, decodeFrame_recognised hk]
        split <;> rfl
    · rw [decodeFrame_extended hge, decodeFrame_extended hge]; rfl

theorem trigMatch_withTsl (t : TriggerSpec) (m : Msg) (tsl : Nat) :
    trigMatch t { m with tsl := tsl } = trigMatch t m := rfl

theorem frameRefused_withTsl (bytes : FrameBytes) (tsl tsl' : Nat) :
    frameRefused (some ⟨bytes, tsl'⟩) = frameRefused (some ⟨bytes, tsl⟩) := by
  rw [frameRefused, frameRefused, decodeFrame_withTsl bytes tsl tsl']
  cases decodeFrame ⟨bytes, tsl⟩ <;> rfl

theorem triggerOf_withTsl (c : CfgRegs) (bytes : FrameBytes) (tsl tsl' : Nat) :
    triggerOf c (some ⟨bytes, tsl'⟩) = (triggerOf c (some ⟨bytes, tsl⟩)).map ({ · with tsl := tsl' }) := by
  simp only [triggerOf, decodeFrame_withTsl bytes tsl tsl']
  cases decodeFrame ⟨bytes, tsl⟩ with
  | error r => rfl
  | ok out =>
    cases out with
    | ok m =>
      cases ht : trigMatch (triggerSpec c) m <;>
        simp [Except.map, DecodeOut.withTsl, trigMatch_withTsl, ht]
    | decodeSkipped | unrecognizedStatus => rfl

/-- Settles O55: neither the refusal, nor the trigger test, nor what a match records, reads the message's `tsl`. -/
theorem tickNeverReadsTsl : Obligations.TickNeverReadsTsl := by
  intro now bytes tsl tsl' s
  have heffect : tickEffect now (some ⟨bytes, tsl'⟩) s = tickEffect now (some ⟨bytes, tsl⟩) s := by
    simp only [tickEffect, triggerOf_withTsl s.cfg bytes tsl tsl']
    cases triggerOf s.cfg (some ⟨bytes, tsl⟩) <;> rfl
  simp only [exec, execTick, tickRefusal, frameRefused_withTsl bytes tsl tsl', heffect]

/-- Settles O56: an empty frame is neither refused nor a trigger. -/
theorem absentAndEmptyFramesActAlike : Obligations.AbsentAndEmptyFramesActAlike :=
  fun _ _ _ => rfl

/-- A frame DECODE does not refuse is a trigger match exactly on the trigger's two leading bytes. -/
theorem exists_isTrigger_iff_bytes {c : CfgRegs} (hc : LegalCfg c) {f : Frame} {out : DecodeOut}
    (hd : decodeFrame f = .ok out) :
    (∃ m, IsTrigger c (some f) m) ↔ ∃ rest, frameList f = statusByte c.trigSt c.trigCh :: c.trigVal :: rest := by
  have hmessage : (∃ m, IsTrigger c (some f) m) ↔ ∃ m, out = .ok m ∧
      (m.channel = c.trigCh ∧ m.status = c.trigSt ∧ m.data1 = some c.trigVal) := by
    simp [IsTrigger, hd]
  rw [hmessage]
  cases out with
  | ok m => simp [triggerTest_iff_bytes hc.trigCh_range hd]
  | decodeSkipped => simp [frameList_ne_of_verdict hd]
  | unrecognizedStatus => simp [frameList_ne_of_verdict hd]

/-- A disengaged controller's TICK that completes ends engaged exactly on a trigger match. -/
theorem execTick_engages_iff {now : Nat} {fin : Option Frame} {s t : State} (he : s.ctl.engaged = false)
    (h : execTick now fin s = .next t) : t.ctl.engaged = true ↔ ∃ m, IsTrigger s.cfg fin m := by
  obtain ⟨-, ⟨he', -⟩ | ⟨-, hn, rfl⟩ | ⟨-, m, hm, rfl⟩⟩ := execTick_next_cases h
  · rw [he] at he'
    cases he'
  · simp [he, hn]
  · exact ⟨fun _ => ⟨m, hm⟩, fun _ => rfl⟩

/-- Settles O45: engaging takes a trigger match, a match is two bytes, and the first is known by its value. -/
theorem engagesExactlyOnTriggerBytes : Obligations.EngagesExactlyOnTriggerBytes := by
  intro s now f t he hc h
  obtain ⟨⟨-, -, hframe⟩, -⟩ := execTick_next_cases h
  obtain ⟨out, hout⟩ := hframe f rfl
  obtain ⟨h1, h16⟩ := hc.trigCh_range
  have hbyte : ∀ b0 : Byte, b0.toNat = (nibOf s.cfg.trigSt).toNat * 16 + (s.cfg.trigCh.toNat - 1) ↔
      b0 = statusByte s.cfg.trigSt s.cfg.trigCh := fun b0 => by
    rw [← statusByte_toNat_of_channel s.cfg.trigSt h1 h16, BitVec.toNat_inj]
  rw [execTick_engages_iff he h, exists_isTrigger_iff_bytes hc hout]
  simp only [hbyte]
  constructor
  · rintro ⟨rest, hrest⟩
    exact ⟨_, rest, hrest, rfl⟩
  · rintro ⟨b0, rest, hrest, rfl⟩
    exact ⟨rest, hrest⟩

/-! ### What TICK writes (R153, R163) -/

/-- Settles O46, by the three things a TICK can do. -/
theorem tickWritesOnlyWhatItNames : Obligations.TickWritesOnlyWhatItNames := by
  intro now fin s t h
  refine ⟨(execTick_frame h).1, (execTick_frame h).2, ?_⟩
  obtain ⟨-, ⟨he, ht, rfl⟩ | ⟨-, -, rfl⟩ | ⟨-, m, hm, rfl⟩⟩ := execTick_next_cases h
  · exact ⟨.inl ⟨rfl, rfl, rfl, fun _ => he⟩, fun _ _ => ht⟩
  · exact ⟨.inl ⟨rfl, rfl, rfl, id⟩, fun he hd => by rw [respond_ctl, he] at hd; cases hd⟩
  · exact ⟨.inr ⟨rfl, rfl, rfl, m, hm⟩, fun _ hd => by cases hd⟩

/-- Settles O44: at the boundary the timeout does not fire, one count later it does. -/
theorem timeoutBoundaryIsStrict : Obligations.TimeoutBoundaryIsStrict := by
  intro s hv he hband
  have hallowed : ∀ n, TickAllowed s (s.ctl.tlt + n) none := fun n =>
    ⟨hv, fun _ => Nat.le_add_right _ n, fun f hf => by cases hf⟩
  have hquiet : ¬(s.ctl.engaged = true ∧ TimedOut s (s.ctl.tlt + s.cfg.timeout)) := fun h =>
    absurd h.2.1 (Nat.lt_irrefl _)
  exact ⟨exec_tick_quiet (hallowed _) hquiet (not_isTrigger_none s.cfg), _,
    exec_tick_timeout (hallowed (s.cfg.timeout + 1)) he ⟨Nat.lt_succ_self _, hband⟩, rfl, rfl⟩

/-- DECODE of an action frame of a legal channel: the action's channel and status, the data masked. -/
theorem decodeFrame_actionFrame {a : ActionSpec} (h : 1 ≤ a.channel.toNat ∧ a.channel.toNat ≤ 16) :
    decodeFrame (actionFrame a) =
      .ok (.ok ⟨a.channel, a.status, some (maskData a.value), some (maskData a.auxValue), 0⟩) :=
  decodeFrame_built a.status a.channel h.1 h.2 _ (by simp [breaksContract])

/-- No action frame of a legal configuration's action is a trigger match: the pair is not ambiguous. -/
theorem not_isTrigger_actionFrame {c : CfgRegs} (hc : LegalCfg c) {a : ActionSpec} (hch : a.channel = c.actCh)
    (hst : a.status = c.actSt) (hval : a.value = c.actVal) (m : Msg) : ¬IsTrigger c (some (actionFrame a)) m := by
  rintro ⟨f, hf, hdec, hm⟩
  cases hf
  rw [decodeFrame_actionFrame (hch ▸ hc.actCh_range), hch, hst, hval, maskData_of_le hc.actVal_le] at hdec
  cases hdec
  obtain ⟨h1, h2, h3⟩ := hm
  exact hc.notAmbiguous ⟨h1.symm, h2.symm, (Option.some.inj h3).symm⟩

/-- Settles O48: an own frame decodes, so the TICK is allowed, and it is no trigger. -/
theorem ownFramesNeverTrigger : Obligations.OwnFramesNeverTrigger := by
  intro s now f hv hc hclock hf
  obtain ⟨a, rfl, hch, hst, hval⟩ : ∃ a : ActionSpec, f = actionFrame a ∧ a.channel = s.cfg.actCh ∧
      a.status = s.cfg.actSt ∧ a.value = s.cfg.actVal := by
    obtain rfl | rfl := hf
    · exact ⟨enableSpec s.cfg, rfl, rfl, rfl, rfl⟩
    · exact ⟨disableSpec s.cfg, rfl, rfl, rfl, rfl⟩
  have hallowed : TickAllowed s now (some (actionFrame a)) := by
    refine ⟨hv, hclock, fun g hg => ?_⟩
    cases hg
    exact ⟨_, decodeFrame_actionFrame (hch ▸ hc.actCh_range)⟩
  obtain ⟨t, ht⟩ := execTick_of_allowed hallowed
  obtain ⟨hltv, htlt, heng, -⟩ := execTick_without_trigger (not_isTrigger_actionFrame hc hch hst hval) ht
  exact ⟨t, ht, hltv, htlt, heng⟩

/-- No value lies strictly between LOW and HIGH when HIGH is at most LOW + 1 (R154). -/
theorem not_inBand_of_narrow_strict {c : CfgRegs} (hb : c.bounds = .strict)
    (hw : c.high.toNat ≤ c.low.toNat + 1) (v : Byte) : ¬InBand c v := by
  rintro (⟨hi, -⟩ | ⟨-, hlow, hhigh⟩)
  · rw [hb] at hi
    cases hi
  · omega

/-- Settles O53: with no value in band the timeout does not fire, and neither of the other two outcomes of a TICK
releases the controller. -/
theorem narrowStrictBandNeverReleases : Obligations.NarrowStrictBandNeverReleases := by
  intro now fin s _ hb hw he hallowed
  obtain ⟨t, ht⟩ := execTick_of_allowed hallowed
  refine ⟨t, ht, ?_⟩
  obtain ⟨-, ⟨-, hto, -⟩ | ⟨-, -, rfl⟩ | ⟨-, m, -, rfl⟩⟩ := execTick_next_cases ht
  · exact absurd hto.2 (not_inBand_of_narrow_strict hb hw _)
  · exact ⟨he, fun f => by simp⟩
  · exact ⟨rfl, fun f => by simp [he]⟩

/-- Settles O54: the timeout comes first, and the disengaged controller it leaves takes the frame at any `now`. -/
theorem coincidentTriggerIsDropped : Obligations.CoincidentTriggerIsDropped := by
  intro now now' fin s m hallowed he hto hm
  have ⟨hv, _, hframe⟩ := hallowed
  exact ⟨_, _, exec_tick_timeout hallowed he hto, rfl, rfl, rfl, rfl,
    exec_tick_trigger (m := m) ⟨hv, fun h => absurd h Bool.false_ne_true, hframe⟩
      (fun h => absurd h.1 Bool.false_ne_true) hm, rfl, rfl, rfl⟩

/-! ### Runs of TICKs without a trigger (R162 to R168) -/

theorem noTrigger_allowed {s : State} {now : Nat} {fin : Option Frame} (hv : s.cfg.valid = true)
    (hclock : s.ctl.engaged = true → s.ctl.tlt ≤ now) (hn : NoTrigger s.cfg fin) : TickAllowed s now fin :=
  ⟨hv, hclock, hn.1⟩

theorem runTicks_cons {now : Nat} {fin : Option Frame} {s t : State}
    (h : deliver (exec (.tick now fin) s) = .next t) (rest : List (Nat × Option Frame)) :
    runTicks ((now, fin) :: rest) s = runTicks rest t := by
  rw [runTicks, h]

/-- A TICK without a trigger on which the timeout cannot fire, the clock in order. -/
def QuietTick (s : State) (p : Nat × Option Frame) : Prop :=
  NoTrigger s.cfg p.2 ∧ (s.ctl.engaged = true → s.ctl.tlt ≤ p.1 ∧ ¬TimedOut s p.1)

/-- Such a TICK changes the output record alone. -/
theorem exec_tick_of_quiet {s : State} (hv : s.cfg.valid = true) {p : Nat × Option Frame} (h : QuietTick s p) :
    exec (.tick p.1 p.2) s = .next (s.respond (.ticked none)) := by
  obtain ⟨hn, hq⟩ := h
  exact exec_tick_quiet (noTrigger_allowed hv (fun he => (hq he).1) hn) (fun ht => (hq ht.1).2 ht.2) hn.2

/-- Any number of them leave the registers and the output stream. -/
theorem runTicks_quiet {s : State} (hv : s.cfg.valid = true) {ticks : List (Nat × Option Frame)}
    (h : ∀ p ∈ ticks, QuietTick s p) :
    ∃ t, runTicks ticks s = .next t ∧ t.ctl = s.ctl ∧ t.cfg = s.cfg ∧ t.host.sent = s.host.sent := by
  induction ticks generalizing s with
  | nil => exact ⟨s, rfl, rfl, rfl, rfl⟩
  | cons p rest ih =>
    obtain ⟨hp, hrest⟩ := List.forall_mem_cons.1 h
    obtain ⟨t, hrun, hctl, hcfg, hsent⟩ := ih (s := s.respond (.ticked none)) hv hrest
    refine ⟨t, ?_, hctl, hcfg, hsent⟩
    rw [runTicks_cons (by rw [exec_tick_of_quiet hv hp, deliver_next, sendReturned_respond_ticked_none]), hrun]

/-- The state after a timeout: disengaged, the disable frame returned and sent. -/
def State.released (s : State) : State :=
  { s with
    ctl := { s.ctl with engaged := false }
    host := { s.host with
      sent := s.host.sent ++ [disableFrame s.cfg], response := some (.ticked (some (disableFrame s.cfg))) } }

theorem runTicks_timeout_cons {s : State} {now : Nat} {fin : Option Frame} (hv : s.cfg.valid = true)
    (he : s.ctl.engaged = true) (hto : TimedOut s now) (hn : NoTrigger s.cfg fin)
    (rest : List (Nat × Option Frame)) : runTicks ((now, fin) :: rest) s = runTicks rest s.released := by
  have hclock : s.ctl.tlt ≤ now := (Nat.le_add_right _ _).trans hto.1.le
  exact runTicks_cons (congrArg deliver (exec_tick_timeout (noTrigger_allowed hv (fun _ => hclock) hn) he hto)) rest

/-- Settles O50: the timeout sends the disable frame, and TICKs without a trigger leave the disengaged state. -/
theorem timeoutSendsExactlyOneDisable : Obligations.TimeoutSendsExactlyOneDisable := by
  intro s now fin ticks hv he hto hn hticks
  have hquiet : ∀ p ∈ ticks, QuietTick s.released p := fun p hp => ⟨hticks p hp, fun h => by cases h⟩
  obtain ⟨t, hrun, hctl, -, hsent⟩ := runTicks_quiet (s := s.released) hv hquiet
  exact ⟨t, by rw [runTicks_timeout_cons hv he hto hn, hrun], by rw [hctl]; rfl, hsent, by rw [hctl]; rfl,
    by rw [hctl]; rfl⟩

/-- Settles O51: out of band the timeout fires on no TICK. -/
theorem heldOutsideBandForever : Obligations.HeldOutsideBandForever := by
  intro s ticks hv _ hband hticks
  refine runTicks_quiet hv fun p hp => ?_
  obtain ⟨hclock, hn⟩ := hticks p hp
  exact ⟨hn, fun _ => ⟨hclock, fun ht => hband ht.2⟩⟩

/-- Settles O52: up to the timeout every TICK is quiet, and the first one beyond meets the same registers. -/
theorem disablesAtFirstTickPastTimeout : Obligations.DisablesAtFirstTickPastTimeout := by
  intro s ticks now fin hv he hband hticks hnow hn
  have hquiet : ∀ p ∈ ticks, QuietTick s p := fun p hp => by
    obtain ⟨hclock, hle, hn⟩ := hticks p hp
    exact ⟨hn, fun _ => ⟨hclock, fun ht => absurd ht.1 (Nat.not_lt.2 hle)⟩⟩
  obtain ⟨u, hrun, hctl, hcfg, hsent⟩ := runTicks_quiet hv hquiet
  have hto : TimedOut u now := by
    rw [TimedOut, hctl, hcfg]
    exact ⟨hnow, hband⟩
  refine ⟨⟨u, hrun, hctl, hsent⟩, u.released, ?_, rfl, ?_⟩
  · rw [runTicks_append hrun, runTicks_timeout_cons (hcfg ▸ hv) (hctl ▸ he) hto (hcfg ▸ hn)]
    rfl
  · rw [← hsent, ← hcfg]
    rfl

end Sys2Proof.Machine
